-- ==== Sys2Proof/Word.lean ====
section
/-! DEFINITION. The word types of the engine: bytes, 32-bit bus words, 32-byte and 64-byte strings,
the 4-bit register field of a command word, and the field values of GF(p). Rules R3, R9, R10, R11, R25.
-/
namespace Sys2Proof

/-- A byte is 8 bits (R60). -/
abbrev Byte := BitVec 8

/-- A 32-bit bus word or command word (R13, R90). -/
abbrev Word := BitVec 32

/-- A 32-byte string, byte `i` in bits `8i .. 8i+7`, so that `toNat` is `int_le` (R9, R10, R21). -/
abbrev Bytes32 := BitVec 256

/-- A 64-byte string, byte `i` in bits `8i .. 8i+7` (R9, R22). -/
abbrev Bytes64 := BitVec 512

/-- A 4-bit register field of a command word; the field value is the register index (R90, R91). -/
abbrev Reg := BitVec 4

/-- The prime p = 2^255 − 19, digits as R4 prints them (R3). -/
abbrev prime25519 : Nat := 0x7fffffffffffffffffffffffffffffffffffffffffffffffffffffffffffffed

/-- A field value: the canonical representative `v`, `0 ≤ v < p` (R11, R25). The operations `+`, `-`,
`*` of `Fin` are those of the integers followed by the remainder mod p, which is R130's arithmetic. -/
abbrev Fe := Fin prime25519

/-- The field value of a natural number, reduced mod p (R11). -/
def feOfNat (n : Nat) : Fe := Fin.ofNat prime25519 n

end Sys2Proof
end

