-- ==== Sys2Proof/Config.lean ====
section
/-! DEFINITION. The implementation parameters of R8, at the values this hardware takes, and the one free
value of the model: what the random port answers (R273, decision D21, log entry 3).
-/
namespace Sys2Proof.Config

/-- `NB`: sixteen 32-byte registers (R8, R21). -/
abbrev nb : Nat := 16

/-- `NFE`: sixteen field-element registers (R8, R23). -/
abbrev nfe : Nat := 16

/-- `NGE`: eight point registers (R8, R26). -/
abbrev nge : Nat := 8

/-- `MSG_BYTES`: the message RAM holds 4096 bytes (R8, R37). -/
abbrev msgBytes : Nat := 4096

/-- The register map spans the offsets 0x0000 to 0x1FFF (R60, R61, R71). -/
abbrev windowBytes : Nat := 0x2000

/-- `ID_VALUE` (R2, R8, R34). -/
def idValue : Word := 0x25519007#32

/-- FREE VALUE (R273, D21; log entry 3): what the random port answers at the n-th draw whose answer the
outside world has not already placed in `State.rng`: 32 bytes, or `none` for "failure". It has no body,
so a claim about it holds whatever the port answers. -/
opaque freeDraw : Nat → Option Bytes32

end Sys2Proof.Config
end

