-- ==== Sys2Proof/Syntax.lean ====
section
/-! DEFINITION. The 49 commands of `C25519E-CMD version 1`, one constructor per row of R96. A field of a
constructor is the 4-bit register field of the command word of that name; its kind (F, G, B or W) is
fixed by the row (R91).
-/
namespace Sys2Proof

/-- The commands of R96, in the table's order. -/
inductive Instr where
  | nop
  | wipeAll
  | feWipe (rd : Reg)
  | geWipe (rd : Reg)
  | bWipe (rd : Reg)
  | feZero (rd : Reg)
  | feOne (rd : Reg)
  | feFromBytes (rd ra : Reg)
  | feToBytes (rd ra : Reg)
  | feAdd (rd ra rb : Reg)
  | feSub (rd ra rb : Reg)
  | feMul (rd ra rb : Reg)
  | feSq (rd ra : Reg)
  | feSq2 (rd ra : Reg)
  | feMulSmall (rd ra : Reg)
  | feInvert (rd ra : Reg)
  | fePow2523 (rd ra : Reg)
  | feIsNeg (ra : Reg)
  | feIsNz (ra : Reg)
  | feNeg (rd ra : Reg)
  | feCswap (ra rb : Reg)
  | scReduce (rd : Reg)
  | scMuladd (rd ra rb rc : Reg)
  | scCheckLtL (ra : Reg)
  | geIdent (rd : Reg)
  | geP3ToCached (rd ra : Reg)
  | geP3ToP2 (rd ra : Reg)
  | geP1p1ToP2 (rd ra : Reg)
  | geP1p1ToP3 (rd ra : Reg)
  | geAdd (rd ra rb : Reg)
  | geSub (rd ra rb : Reg)
  | geMadd (rd ra rb : Reg)
  | geMsub (rd ra rb : Reg)
  | geP2Dbl (rd ra : Reg)
  | geP3Dbl (rd ra : Reg)
  | geEncode (rd ra : Reg)
  | geDecode (rd ra : Reg)
  | geDecodeNeg (rd ra : Reg)
  | geSelect (rd : Reg)
  | geLoadBi (rd : Reg)
  | geScalarmultBase (rd ra : Reg)
  | geDoubleScalarmultVt (rd ra rb rc : Reg)
  | x25519 (rd ra rb : Reg)
  | x25519Base (rd ra : Reg)
  | edFromSeed (rd ra rb : Reg)
  | edFrom (rd ra rb : Reg)
  | edGenerate (rd ra : Reg)
  | edSign (rd ra rb : Reg)
  | edVerify (ra rb : Reg)
  deriving DecidableEq, Repr

end Sys2Proof
end

