-- ==== Sys2Proof/WellFormed.lean ====
section
/-! DEFINITION. When a command's fields are legal (R91, R92 (d)): a G or W field must be 0 to 7, an F or B
field may be 0 to 15. The other conditions of R92 (a known opcode, zero bits 31:24, zero unused fields)
hold of every `Instr` by construction.
-/
namespace Sys2Proof

/-- A G field names one of the eight point registers: bit 3 of the field is 0 (R91). -/
def gFieldOk (r : Reg) : Bool := decide (r.toNat < 8)

/-- A W field names one of the eight 64-byte views: bit 3 of the field is 0 (R91). -/
def wFieldOk (r : Reg) : Bool := decide (r.toNat < 8)

/-- Every G and W field of the command is in range, by the kinds of R96's column "rd ra rb rc". -/
def Instr.wf : Instr → Bool
  | .nop => true
  | .wipeAll => true
  | .feWipe _ => true
  | .geWipe rd => gFieldOk rd
  | .bWipe _ => true
  | .feZero _ => true
  | .feOne _ => true
  | .feFromBytes _ _ => true
  | .feToBytes _ _ => true
  | .feAdd _ _ _ => true
  | .feSub _ _ _ => true
  | .feMul _ _ _ => true
  | .feSq _ _ => true
  | .feSq2 _ _ => true
  | .feMulSmall _ _ => true
  | .feInvert _ _ => true
  | .fePow2523 _ _ => true
  | .feIsNeg _ => true
  | .feIsNz _ => true
  | .feNeg _ _ => true
  | .feCswap _ _ => true
  | .scReduce rd => wFieldOk rd
  | .scMuladd _ _ _ _ => true
  | .scCheckLtL _ => true
  | .geIdent rd => gFieldOk rd
  | .geP3ToCached rd ra => gFieldOk rd && gFieldOk ra
  | .geP3ToP2 rd ra => gFieldOk rd && gFieldOk ra
  | .geP1p1ToP2 rd ra => gFieldOk rd && gFieldOk ra
  | .geP1p1ToP3 rd ra => gFieldOk rd && gFieldOk ra
  | .geAdd rd ra rb => gFieldOk rd && gFieldOk ra && gFieldOk rb
  | .geSub rd ra rb => gFieldOk rd && gFieldOk ra && gFieldOk rb
  | .geMadd rd ra rb => gFieldOk rd && gFieldOk ra && gFieldOk rb
  | .geMsub rd ra rb => gFieldOk rd && gFieldOk ra && gFieldOk rb
  | .geP2Dbl rd ra => gFieldOk rd && gFieldOk ra
  | .geP3Dbl rd ra => gFieldOk rd && gFieldOk ra
  | .geEncode _ ra => gFieldOk ra
  | .geDecode rd _ => gFieldOk rd
  | .geDecodeNeg rd _ => gFieldOk rd
  | .geSelect rd => gFieldOk rd
  | .geLoadBi rd => gFieldOk rd
  | .geScalarmultBase rd _ => gFieldOk rd
  | .geDoubleScalarmultVt rd _ rb _ => gFieldOk rd && gFieldOk rb
  | .x25519 _ _ _ => true
  | .x25519Base _ _ => true
  | .edFromSeed rd _ _ => wFieldOk rd
  | .edFrom rd _ rb => wFieldOk rd && wFieldOk rb
  | .edGenerate rd _ => wFieldOk rd
  | .edSign rd ra _ => wFieldOk rd && wFieldOk ra
  | .edVerify _ rb => wFieldOk rb

end Sys2Proof
end

