-- ==== Sys2Proof/Decode.lean ====
section
/-! DEFINITION. The decoder of command words (R90 to R97), total on every 32-bit word and refusing illegal
words by name, and after it the encoder (R90, R102). A command word is a 32-bit number written to `CMD`
as a whole, so the decoder takes a word and no bytes (R62, R90).
-/
namespace Sys2Proof

/-- Why a word is no command; each raises `ERR_ILLEGAL` at completion (R92, R97). -/
inductive DecodeReject where
  /-- R92 (a): bits 7:0 are none of the 49 opcodes. -/
  | unusedOpcode
  /-- R92 (b): bits 31:24 are not all 0. -/
  | reservedByte
  /-- R92 (c), (d): an unused field is not 0, or a G or W field is above 7. -/
  | illegalField
  deriving DecidableEq, Repr

/-- The test `(word & mask) == match` of R92 and R95, with the reason where it fails. -/
def accept (w mask pattern : Word) (i : Instr) : Except DecodeReject Instr :=
  if w &&& mask = pattern then .ok i
  else if w.extractLsb' 24 8 = 0#8 then .error .illegalField
  else .error .reservedByte

/-- Decoding (R95): the row of R96 by `word[7:0]`, the row's mask and match, the fields `rd`, `ra`, `rb`,
`rc` at bits 11:8, 15:12, 19:16, 23:20 (R90). -/
def decode (w : Word) : Except DecodeReject Instr :=
  let rd := w.extractLsb' 8 4
  let ra := w.extractLsb' 12 4
  let rb := w.extractLsb' 16 4
  let rc := w.extractLsb' 20 4
  match w.extractLsb' 0 8 with
  | 0x00#8 => accept w 0xffffffff#32 0x00000000#32 .nop
  | 0x01#8 => accept w 0xffffffff#32 0x00000001#32 .wipeAll
  | 0x02#8 => accept w 0xfffff0ff#32 0x00000002#32 (.feWipe rd)
  | 0x03#8 => accept w 0xfffff8ff#32 0x00000003#32 (.geWipe rd)
  | 0x04#8 => accept w 0xfffff0ff#32 0x00000004#32 (.bWipe rd)
  | 0x10#8 => accept w 0xfffff0ff#32 0x00000010#32 (.feZero rd)
  | 0x11#8 => accept w 0xfffff0ff#32 0x00000011#32 (.feOne rd)
  | 0x12#8 => accept w 0xffff00ff#32 0x00000012#32 (.feFromBytes rd ra)
  | 0x13#8 => accept w 0xffff00ff#32 0x00000013#32 (.feToBytes rd ra)
  | 0x14#8 => accept w 0xfff000ff#32 0x00000014#32 (.feAdd rd ra rb)
  | 0x15#8 => accept w 0xfff000ff#32 0x00000015#32 (.feSub rd ra rb)
  | 0x16#8 => accept w 0xfff000ff#32 0x00000016#32 (.feMul rd ra rb)
  | 0x17#8 => accept w 0xffff00ff#32 0x00000017#32 (.feSq rd ra)
  | 0x18#8 => accept w 0xffff00ff#32 0x00000018#32 (.feSq2 rd ra)
  | 0x19#8 => accept w 0xffff00ff#32 0x00000019#32 (.feMulSmall rd ra)
  | 0x1a#8 => accept w 0xffff00ff#32 0x0000001a#32 (.feInvert rd ra)
  | 0x1b#8 => accept w 0xffff00ff#32 0x0000001b#32 (.fePow2523 rd ra)
  | 0x1c#8 => accept w 0xffff0fff#32 0x0000001c#32 (.feIsNeg ra)
  | 0x1d#8 => accept w 0xffff0fff#32 0x0000001d#32 (.feIsNz ra)
  | 0x1e#8 => accept w 0xffff00ff#32 0x0000001e#32 (.feNeg rd ra)
  | 0x1f#8 => accept w 0xfff00fff#32 0x0000001f#32 (.feCswap ra rb)
  | 0x20#8 => accept w 0xfffff8ff#32 0x00000020#32 (.scReduce rd)
  | 0x21#8 => accept w 0xff0000ff#32 0x00000021#32 (.scMuladd rd ra rb rc)
  | 0x22#8 => accept w 0xffff0fff#32 0x00000022#32 (.scCheckLtL ra)
  | 0x30#8 => accept w 0xfffff8ff#32 0x00000030#32 (.geIdent rd)
  | 0x31#8 => accept w 0xffff88ff#32 0x00000031#32 (.geP3ToCached rd ra)
  | 0x32#8 => accept w 0xffff88ff#32 0x00000032#32 (.geP3ToP2 rd ra)
  | 0x33#8 => accept w 0xffff88ff#32 0x00000033#32 (.geP1p1ToP2 rd ra)
  | 0x34#8 => accept w 0xffff88ff#32 0x00000034#32 (.geP1p1ToP3 rd ra)
  | 0x35#8 => accept w 0xfff888ff#32 0x00000035#32 (.geAdd rd ra rb)
  | 0x36#8 => accept w 0xfff888ff#32 0x00000036#32 (.geSub rd ra rb)
  | 0x37#8 => accept w 0xfff888ff#32 0x00000037#32 (.geMadd rd ra rb)
  | 0x38#8 => accept w 0xfff888ff#32 0x00000038#32 (.geMsub rd ra rb)
  | 0x39#8 => accept w 0xffff88ff#32 0x00000039#32 (.geP2Dbl rd ra)
  | 0x3a#8 => accept w 0xffff88ff#32 0x0000003a#32 (.geP3Dbl rd ra)
  | 0x3b#8 => accept w 0xffff80ff#32 0x0000003b#32 (.geEncode rd ra)
  | 0x3c#8 => accept w 0xffff08ff#32 0x0000003c#32 (.geDecode rd ra)
  | 0x3d#8 => accept w 0xffff08ff#32 0x0000003d#32 (.geDecodeNeg rd ra)
  | 0x40#8 => accept w 0xfffff8ff#32 0x00000040#32 (.geSelect rd)
  | 0x41#8 => accept w 0xfffff8ff#32 0x00000041#32 (.geLoadBi rd)
  | 0x42#8 => accept w 0xffff08ff#32 0x00000042#32 (.geScalarmultBase rd ra)
  | 0x43#8 => accept w 0xff0808ff#32 0x00000043#32 (.geDoubleScalarmultVt rd ra rb rc)
  | 0x50#8 => accept w 0xfff000ff#32 0x00000050#32 (.x25519 rd ra rb)
  | 0x51#8 => accept w 0xffff00ff#32 0x00000051#32 (.x25519Base rd ra)
  | 0x60#8 => accept w 0xfff008ff#32 0x00000060#32 (.edFromSeed rd ra rb)
  | 0x61#8 => accept w 0xfff808ff#32 0x00000061#32 (.edFrom rd ra rb)
  | 0x62#8 => accept w 0xffff08ff#32 0x00000062#32 (.edGenerate rd ra)
  | 0x63#8 => accept w 0xfff088ff#32 0x00000063#32 (.edSign rd ra rb)
  | 0x64#8 => accept w 0xfff80fff#32 0x00000064#32 (.edVerify ra rb)
  | _ => .error .unusedOpcode

/-- The opcode of a command: the first column of R96. -/
def Instr.opcode : Instr → BitVec 8
  | .nop => 0x00#8
  | .wipeAll => 0x01#8
  | .feWipe _ => 0x02#8
  | .geWipe _ => 0x03#8
  | .bWipe _ => 0x04#8
  | .feZero _ => 0x10#8
  | .feOne _ => 0x11#8
  | .feFromBytes _ _ => 0x12#8
  | .feToBytes _ _ => 0x13#8
  | .feAdd _ _ _ => 0x14#8
  | .feSub _ _ _ => 0x15#8
  | .feMul _ _ _ => 0x16#8
  | .feSq _ _ => 0x17#8
  | .feSq2 _ _ => 0x18#8
  | .feMulSmall _ _ => 0x19#8
  | .feInvert _ _ => 0x1a#8
  | .fePow2523 _ _ => 0x1b#8
  | .feIsNeg _ => 0x1c#8
  | .feIsNz _ => 0x1d#8
  | .feNeg _ _ => 0x1e#8
  | .feCswap _ _ => 0x1f#8
  | .scReduce _ => 0x20#8
  | .scMuladd _ _ _ _ => 0x21#8
  | .scCheckLtL _ => 0x22#8
  | .geIdent _ => 0x30#8
  | .geP3ToCached _ _ => 0x31#8
  | .geP3ToP2 _ _ => 0x32#8
  | .geP1p1ToP2 _ _ => 0x33#8
  | .geP1p1ToP3 _ _ => 0x34#8
  | .geAdd _ _ _ => 0x35#8
  | .geSub _ _ _ => 0x36#8
  | .geMadd _ _ _ => 0x37#8
  | .geMsub _ _ _ => 0x38#8
  | .geP2Dbl _ _ => 0x39#8
  | .geP3Dbl _ _ => 0x3a#8
  | .geEncode _ _ => 0x3b#8
  | .geDecode _ _ => 0x3c#8
  | .geDecodeNeg _ _ => 0x3d#8
  | .geSelect _ => 0x40#8
  | .geLoadBi _ => 0x41#8
  | .geScalarmultBase _ _ => 0x42#8
  | .geDoubleScalarmultVt _ _ _ _ => 0x43#8
  | .x25519 _ _ _ => 0x50#8
  | .x25519Base _ _ => 0x51#8
  | .edFromSeed _ _ _ => 0x60#8
  | .edFrom _ _ _ => 0x61#8
  | .edGenerate _ _ => 0x62#8
  | .edSign _ _ _ => 0x63#8
  | .edVerify _ _ => 0x64#8

/-- The word of R90 and R102: `opcode | rd<<8 | ra<<12 | rb<<16 | rc<<20`, bits 31:24 zero. -/
def commandWord (opcode : BitVec 8) (rd ra rb rc : Reg) : Word :=
  0#8 ++ (rc ++ (rb ++ (ra ++ (rd ++ opcode))))

/-- The encoder: the word of a command, unused fields 0 (R92 (c), R102). -/
def encode : Instr → Word
  | .nop => commandWord 0x00#8 0#4 0#4 0#4 0#4
  | .wipeAll => commandWord 0x01#8 0#4 0#4 0#4 0#4
  | .feWipe rd => commandWord 0x02#8 rd 0#4 0#4 0#4
  | .geWipe rd => commandWord 0x03#8 rd 0#4 0#4 0#4
  | .bWipe rd => commandWord 0x04#8 rd 0#4 0#4 0#4
  | .feZero rd => commandWord 0x10#8 rd 0#4 0#4 0#4
  | .feOne rd => commandWord 0x11#8 rd 0#4 0#4 0#4
  | .feFromBytes rd ra => commandWord 0x12#8 rd ra 0#4 0#4
  | .feToBytes rd ra => commandWord 0x13#8 rd ra 0#4 0#4
  | .feAdd rd ra rb => commandWord 0x14#8 rd ra rb 0#4
  | .feSub rd ra rb => commandWord 0x15#8 rd ra rb 0#4
  | .feMul rd ra rb => commandWord 0x16#8 rd ra rb 0#4
  | .feSq rd ra => commandWord 0x17#8 rd ra 0#4 0#4
  | .feSq2 rd ra => commandWord 0x18#8 rd ra 0#4 0#4
  | .feMulSmall rd ra => commandWord 0x19#8 rd ra 0#4 0#4
  | .feInvert rd ra => commandWord 0x1a#8 rd ra 0#4 0#4
  | .fePow2523 rd ra => commandWord 0x1b#8 rd ra 0#4 0#4
  | .feIsNeg ra => commandWord 0x1c#8 0#4 ra 0#4 0#4
  | .feIsNz ra => commandWord 0x1d#8 0#4 ra 0#4 0#4
  | .feNeg rd ra => commandWord 0x1e#8 rd ra 0#4 0#4
  | .feCswap ra rb => commandWord 0x1f#8 0#4 ra rb 0#4
  | .scReduce rd => commandWord 0x20#8 rd 0#4 0#4 0#4
  | .scMuladd rd ra rb rc => commandWord 0x21#8 rd ra rb rc
  | .scCheckLtL ra => commandWord 0x22#8 0#4 ra 0#4 0#4
  | .geIdent rd => commandWord 0x30#8 rd 0#4 0#4 0#4
  | .geP3ToCached rd ra => commandWord 0x31#8 rd ra 0#4 0#4
  | .geP3ToP2 rd ra => commandWord 0x32#8 rd ra 0#4 0#4
  | .geP1p1ToP2 rd ra => commandWord 0x33#8 rd ra 0#4 0#4
  | .geP1p1ToP3 rd ra => commandWord 0x34#8 rd ra 0#4 0#4
  | .geAdd rd ra rb => commandWord 0x35#8 rd ra rb 0#4
  | .geSub rd ra rb => commandWord 0x36#8 rd ra rb 0#4
  | .geMadd rd ra rb => commandWord 0x37#8 rd ra rb 0#4
  | .geMsub rd ra rb => commandWord 0x38#8 rd ra rb 0#4
  | .geP2Dbl rd ra => commandWord 0x39#8 rd ra 0#4 0#4
  | .geP3Dbl rd ra => commandWord 0x3a#8 rd ra 0#4 0#4
  | .geEncode rd ra => commandWord 0x3b#8 rd ra 0#4 0#4
  | .geDecode rd ra => commandWord 0x3c#8 rd ra 0#4 0#4
  | .geDecodeNeg rd ra => commandWord 0x3d#8 rd ra 0#4 0#4
  | .geSelect rd => commandWord 0x40#8 rd 0#4 0#4 0#4
  | .geLoadBi rd => commandWord 0x41#8 rd 0#4 0#4 0#4
  | .geScalarmultBase rd ra => commandWord 0x42#8 rd ra 0#4 0#4
  | .geDoubleScalarmultVt rd ra rb rc => commandWord 0x43#8 rd ra rb rc
  | .x25519 rd ra rb => commandWord 0x50#8 rd ra rb 0#4
  | .x25519Base rd ra => commandWord 0x51#8 rd ra 0#4 0#4
  | .edFromSeed rd ra rb => commandWord 0x60#8 rd ra rb 0#4
  | .edFrom rd ra rb => commandWord 0x61#8 rd ra rb 0#4
  | .edGenerate rd ra => commandWord 0x62#8 rd ra 0#4 0#4
  | .edSign rd ra rb => commandWord 0x63#8 rd ra rb 0#4
  | .edVerify ra rb => commandWord 0x64#8 0#4 ra rb 0#4

/-- The instruction the decoder reads from the low `nbits` bits of `w`, bits numbered as
spec/opcode_table.json numbers them, every higher bit 0; `none` where the decoder refuses, or where the
number does not fit the one command length of 32 bits (R90). -/
def decodeTableWord (nbits w : Nat) : Option Instr :=
  if w % 2 ^ nbits < 2 ^ 32 then (decode (BitVec.ofNat 32 (w % 2 ^ nbits))).toOption else none

end Sys2Proof
end

