-- ==== Sys2Proof/Machine/State.lean ====
section
/-! DEFINITION. The state of one engine (R20), with the outside world's inputs as plain data (R18), the
reasons a step can stop, and the state after reset (R42).
-/
namespace Sys2Proof.Machine

/-- `P2(X, Y, Z)`: stands for the affine point (X/Z, Y/Z) (R190). -/
structure P2 where
  x : Fe
  y : Fe
  z : Fe
  deriving DecidableEq, Repr

/-- `P3(X, Y, Z, T)`: extended coordinates, T·Z = X·Y (R191). The coordinate `t` is R26's `.T`, not the
result flag. -/
structure P3 where
  x : Fe
  y : Fe
  z : Fe
  t : Fe
  deriving DecidableEq, Repr

/-- `P1P1(X, Y, Z, T)`: stands for the affine point (X/Z, Y/T) (R192). -/
structure P1P1 where
  x : Fe
  y : Fe
  z : Fe
  t : Fe
  deriving DecidableEq, Repr

/-- `Cached(YplusX, YminusX, Z, T2d)` (R193). -/
structure Cached where
  yPlusX  : Fe
  yMinusX : Fe
  z       : Fe
  t2d     : Fe
  deriving DecidableEq, Repr

/-- `Precomp(yplusx, yminusx, xy2d)` (R194). -/
structure Precomp where
  yPlusX  : Fe
  yMinusX : Fe
  xy2d    : Fe
  deriving DecidableEq, Repr

/-- The content of a point register that is not Empty: one of the five tagged variants (R26). -/
inductive Point where
  | p2 (v : P2)
  | p3 (v : P3)
  | p1p1 (v : P1P1)
  | cached (v : Cached)
  | precomp (v : Precomp)
  deriving DecidableEq, Repr

/-- An affine pair (x, y) of field values (R195). -/
structure Affine where
  x : Fe
  y : Fe
  deriving DecidableEq, Repr

/-- The five errors a completion can report (R282). -/
inductive ErrCode where
  /-- Code 1 (R283). -/
  | illegal
  /-- Code 2 (R284). -/
  | empty
  /-- Code 3 (R285). -/
  | tag
  /-- Code 4 (R286). -/
  | msglen
  /-- Code 5 (R287). -/
  | invalidKey
  deriving DecidableEq, Repr

/-- The width of a host bus access; only 32 bits is accepted (R65). -/
inductive AccessWidth where
  | w8
  | w16
  | w32
  | w64
  deriving DecidableEq, Repr

/-- One host bus access at a byte offset of the register map (R13, R61). -/
inductive HostAccess where
  | read (offset : Nat) (width : AccessWidth)
  | write (offset : Nat) (width : AccessWidth) (value : Word)
  deriving DecidableEq, Repr

/-- What the schedule lets happen next: one host access, the engine's turn, or the platform's hard reset
(R18, R310). -/
inductive Event where
  | host (a : HostAccess)
  | engine
  | hardReset
  deriving DecidableEq, Repr

/-- The message RAM's listed bytes, addresses strictly rising; an unlisted byte reads as 0 (R37). -/
abbrev Memory := List Host.Cell

/-- The architectural state of one engine (R20), and below it the model's own record of what lies outside
the engine: the schedule, the random port's answers, the value the last host read returned. -/
structure State where
  /-- `B[0..15]`, seen also as `W[0..7]` (R21, R22). -/
  b : Vector Bytes32 Config.nb
  /-- `F[0..15]`; `none` is Empty (R23, R24, R25). -/
  f : Vector (Option Fe) Config.nfe
  /-- `G[0..7]`; `none` is Empty (R24, R26). -/
  g : Vector (Option Point) Config.nge
  /-- The result flag `T`, read as `STATUS[3]` (R28). -/
  flagT : Bool
  /-- `ARG` (R29). -/
  arg : Word
  /-- `STATUS[1]`, DONE (R31). -/
  done : Bool
  /-- `STATUS[2]`, ERR (R31). -/
  err : Bool
  /-- `STATUS[4]`, ACCV (R31). -/
  accv : Bool
  /-- `ERRCODE` (R32). -/
  errcode : Word
  /-- `CTRL[0]`, IE (R35). -/
  ie : Bool
  /-- `MSGLEN` (R36). -/
  msglen : Word
  /-- `MSG[0..4095]`, keyed by the index into `MSG` (R37). -/
  msg : Memory
  /-- `PEND`, with `none` for "none pending"; `STATUS[0]`, BUSY, is 1 exactly when a command is pending
  (R31, R39, R42; log entry 5). -/
  pend : Option Word
  /-- The model's own field: what the schedule holds, the next event first (R18, R41; log entry 1). -/
  agenda : List Event
  /-- The model's own field: answers the random port has ready, the next draw's first (R273; log entry 3). -/
  rng : List (Option Bytes32)
  /-- The model's own field: how many draws took the free value `Config.freeDraw` (log entry 3). -/
  draws : Nat
  /-- The model's own field: the value the last host read returned, `none` before the first (log entry 4). -/
  rdata : Option Word
  deriving DecidableEq, Repr

/-- The faults of a step. -/
inductive Fault where
  /-- Raised by a host access (`hostStep`) at an offset above 0x1FFF, which is outside the engine and the
  platform's (R67). Safe: the model stops where the spec says nothing. -/
  | offsetOutsideWindow
  deriving DecidableEq, Repr

/-- The refusals of a step. -/
inductive Refusal where
  /-- Raised by `exec` for an instruction without a meaning; no arm does. Safe: nothing is claimed of it. -/
  | notModelled (mnemonic : String)
  deriving DecidableEq, Repr

/-- The outcome of a step or of a command. -/
abbrev Outcome := Host.Outcome State Fault Refusal

/-- The state after reset (R42, R310): every B register and every byte of `MSG` zero, every F and G
register Empty, every flag and register 0, nothing pending. The last four fields are the model's own;
their values are log entries 1, 3 and 4. -/
def State.reset : State where
  b := Vector.replicate Config.nb 0#256
  f := Vector.replicate Config.nfe none
  g := Vector.replicate Config.nge none
  flagT := false
  arg := 0#32
  done := false
  err := false
  accv := false
  errcode := 0#32
  ie := false
  msglen := 0#32
  msg := []
  pend := none
  agenda := []
  rng := []
  draws := 0
  rdata := none

end Sys2Proof.Machine
end

