-- ==== Sys2Proof/Machine/Constants.lean ====
section
/-! DEFINITION. The fixed mathematical constants of R3 and R4, which are not state (R38).
-/
namespace Sys2Proof.Machine

/-- `D` = −121665 · 121666⁻¹ mod p (R4). -/
def constD : Fe := feOfNat 0x52036cee2b6ffe738cc740797779e89800700a4d4141d8ab75eb4dca135978a3

/-- `D2` = 2·d mod p (R4). -/
def constD2 : Fe := feOfNat 0x2406d9dc56dffce7198e80f2eef3d13000e0149a8283b156ebd69b9426b2f159

/-- `SQRTM1` = 2^((p−1)/4) mod p, a square root of −1 (R4). -/
def constSqrtM1 : Fe := feOfNat 0x2b8324804fc1df0b2b4d00993dfbd7a72f431806ad2fe478c4ee1b274a0ea0b0

/-- The group order ℓ (R4). -/
def groupOrder : Nat := 0x1000000000000000000000000000000014def9dea2f79cd65812631a5cf5d3ed

/-- The generator B: y = 4/5, x even (R4, R195). -/
def basePoint : Affine where
  x := feOfNat 0x216936d3cd6e53fec0a4e231fdd6dc5c692cc7609525a7b2c9562d608f25d51a
  y := feOfNat 0x6666666666666666666666666666666666666666666666666666666666666658

/-- The Montgomery-form constant of the ladder (R3, R241). -/
def const121666 : Nat := 121666

/-- The X25519 base point u = 9 as a 32-byte string (R3, R243). -/
def x25519BaseU : Bytes32 := 9#256

end Sys2Proof.Machine
end

