-- ==== Sys2Proof/Machine/Ops.lean ====
section
/-! DEFINITION. The named operations over the message RAM, byte strings and registers, the completion of a
command and the raising of an error (R281, R296), the issue of a command (R295), the reset (R310), the
random port (R273) and the schedule. Every read and write of a register goes through an accessor here.
-/
namespace Sys2Proof.Machine

/-! ## Byte strings (R9, R10) -/

/-- Byte `i` of a byte string, bits `8i .. 8i+7` (R10). -/
def byteAt {w : Nat} (s : BitVec w) (i : Nat) : Byte := s.extractLsb' (8 * i) 8

/-- The byte string with byte `i` replaced (R10). -/
def setByte {w : Nat} (s : BitVec w) (i : Nat) (v : Byte) : BitVec w :=
  (s &&& ~~~((0xff#8).setWidth w <<< (8 * i))) ||| (v.setWidth w <<< (8 * i))

/-- The first `n` bytes of a byte string, byte 0 first (R9). -/
def bytesOf {w : Nat} (n : Nat) (s : BitVec w) : List Byte := (List.range n).map (byteAt s)

/-- `int_le` of a list of bytes, byte 0 first (R9). -/
def intLe : List Byte → Nat
  | [] => 0
  | b :: rest => b.toNat + 256 * intLe rest

/-- `clamp` (R17): clear the bottom 3 bits of byte 0, clear the top bit and set the second-top bit of
byte 31; the bytes of a longer string beyond byte 31 are kept. -/
def clamp {w : Nat} (s : BitVec w) : BitVec w :=
  let s := setByte s 0 (byteAt s 0 &&& 248#8)
  let s := setByte s 31 (byteAt s 31 &&& 127#8)
  setByte s 31 (byteAt s 31 ||| 64#8)

/-- Word `m` of a 32-byte register: bits `[32m+31 : 32m]` of `int_le` (R63). -/
def wordAt (s : Bytes32) (m : Nat) : Word := s.extractLsb' (32 * m) 32

/-- The register with word `m` replaced, the other 28 bytes unchanged (R63). -/
def setWord (s : Bytes32) (m : Nat) (v : Word) : Bytes32 :=
  (s &&& ~~~((0xffffffff#32).setWidth 256 <<< (32 * m))) ||| (v.setWidth 256 <<< (32 * m))

/-! ## The message RAM (R37, R62, R64) -/

/-- `MSG[a]`; a byte that is not listed is 0, its reset value (R37). -/
def memRead : Memory → Nat → Byte
  | [], _ => 0#8
  | (k, v) :: rest, a => if k = a then v else memRead rest a

/-- `MSG[a] <- v`, in canonical form: addresses strictly rising, no entry equal to 0. -/
def memWrite : Memory → Nat → Byte → Memory
  | [], a, v => if v = 0#8 then [] else [(a, v)]
  | (k, w) :: rest, a, v =>
    if a < k then (if v = 0#8 then (k, w) :: rest else (a, v) :: (k, w) :: rest)
    else if a = k then (if v = 0#8 then rest else (a, v) :: rest)
    else (k, w) :: memWrite rest a v

/-- Canonical form from address `lo` up: every listed address is at least `lo` and above the one before it,
and no listed byte is 0. -/
def memWfFrom (lo : Nat) : Memory → Bool
  | [] => true
  | (k, v) :: rest => decide (lo ≤ k) && decide (v ≠ 0#8) && memWfFrom (k + 1) rest

/-- The canonical form of the message RAM. -/
def Memory.wf (m : Memory) : Bool := memWfFrom 0 m

/-- Every listed address lies in the RAM (R37). -/
def memInRam (m : Memory) : Bool := m.all fun c => decide (c.1 < Config.msgBytes)

/-- The 32-bit word whose lowest byte is `MSG[a]`, little-endian (R62, R64). -/
def memReadWord (m : Memory) (a : Nat) : Word :=
  memRead m (a + 3) ++ memRead m (a + 2) ++ memRead m (a + 1) ++ memRead m a

/-- A little-endian word write: bits [7:0] to `MSG[a]`, …, bits [31:24] to `MSG[a+3]` (R62, R64). -/
def memWriteWord (m : Memory) (a : Nat) (v : Word) : Memory :=
  memWrite (memWrite (memWrite (memWrite m a (byteAt v 0)) (a + 1) (byteAt v 1)) (a + 2) (byteAt v 2))
    (a + 3) (byteAt v 3)

/-- `MSG[0..n)`, the first `n` bytes of the RAM (R12, R36). -/
def memFirst (m : Memory) (n : Nat) : List Byte := (List.range n).map (memRead m)

/-! ## Registers (R12, R20 to R26) -/

/-- `B[r]` (R21). -/
def readB (s : State) (r : Reg) : Bytes32 := s.b[r.toNat]'r.isLt

/-- `B[r] <- v` (R21). -/
def writeB (s : State) (r : Reg) (v : Bytes32) : State := { s with b := s.b.set r.toNat v r.isLt }

/-- The B register that holds bytes 0 to 31 of `W[r]` (R22). -/
def wLow (r : Reg) : Reg := r <<< 1

/-- The B register that holds bytes 32 to 63 of `W[r]` (R22). -/
def wHigh (r : Reg) : Reg := (r <<< 1) ||| 1#4

/-- `W[r]` = `B[2r] ‖ B[2r+1]`, byte 0 lowest (R12, R22). -/
def readW (s : State) (r : Reg) : Bytes64 := readB s (wHigh r) ++ readB s (wLow r)

/-- `W[r] <- v`: bytes 0 to 31 to `B[2r]`, bytes 32 to 63 to `B[2r+1]` (R12, R22). -/
def writeW (s : State) (r : Reg) (v : Bytes64) : State :=
  writeB (writeB s (wLow r) (v.extractLsb' 0 256)) (wHigh r) (v.extractLsb' 256 256)

/-- `F[r]`, `none` when Empty (R23, R24). -/
def readF (s : State) (r : Reg) : Option Fe := s.f[r.toNat]'r.isLt

/-- `F[r] <- v` for a field value, `F[r] <- Empty` for `none` (R23, R24). -/
def putF (s : State) (r : Reg) (v : Option Fe) : State := { s with f := s.f.set r.toNat v r.isLt }

/-- The index of a point register: the low three bits of a G field, whose bit 3 a legal word has 0 (R91). -/
def gIndex (r : Reg) : Fin 8 := (r.extractLsb' 0 3).toFin

/-- `G[r]`, `none` when Empty (R24, R26). -/
def readG (s : State) (r : Reg) : Option Point := s.g[(gIndex r).val]'(gIndex r).isLt

/-- `G[r] <- v` for a point value, `G[r] <- Empty` for `none` (R24, R26). -/
def putG (s : State) (r : Reg) (v : Option Point) : State :=
  { s with g := s.g.set (gIndex r).val v (gIndex r).isLt }

/-- `STATUS.BUSY`: a command is pending (R31, R39). -/
def State.busy (s : State) : Bool := s.pend.isSome

/-! ## The life cycle of a command (R281, R295, R296) -/

/-- The value of `ERRCODE` for an error (R32, R282). -/
def errWord : ErrCode → Word
  | .illegal => 1#32
  | .empty => 2#32
  | .tag => 3#32
  | .msglen => 4#32
  | .invalidKey => 5#32

/-- Issue (R295): `PEND <- w`, BUSY ← 1, DONE ← 0, and nothing else. -/
def issue (s : State) (w : Word) : State := { s with pend := some w, done := false }

/-- The last line of a completion (R296): BUSY ← 0, DONE ← 1. -/
def finish (s : State) : State := { s with pend := none, done := true }

/-- TAKING AN EXCEPTION (R281, R296): ERR ← 1, `ERRCODE` ← the code, BUSY ← 0, DONE ← 1; no other
architectural state changes, and no control is transferred (R292). -/
def takeError (s : State) (e : ErrCode) : State := finish { s with err := true, errcode := errWord e }

/-- The RETURN beside it (R31, R293): the host's write-1-to-clear of ERR, which also sets `ERRCODE` to 0
and restores nothing, because nothing was changed. -/
def clearError (s : State) : State := { s with err := false, errcode := 0#32 }

/-- Completion (R296): the error where a check failed, else the command's effects; then BUSY ← 0, DONE ← 1. -/
def complete (s : State) (effect : Except ErrCode State) : State :=
  match effect with
  | .error e => takeError s e
  | .ok s' => finish s'

/-- A command's completion step (R99, R296): legality of the fields first, then the command's own checks and
effects. It always answers a next state. -/
def command (i : Instr) (s : State) (effect : Except ErrCode State) : Outcome :=
  .next (complete s (if i.wf then effect else .error .illegal))

/-! ## Reset (R310, R311) -/

/-- Hard and soft reset: every piece of the engine's state at the value of R42. What lies outside the engine
(the schedule, the ports, the last value the host read) is not the engine's to reset (log entry 2). -/
def resetEngine (s : State) : State :=
  { State.reset with agenda := s.agenda, rng := s.rng, draws := s.draws, rdata := s.rdata }

/-! ## The random port (R273, R274) -/

/-- The answer to the next draw: the next answer the port has ready, else the free value (R273, D21). -/
def nextDraw (s : State) : Option Bytes32 :=
  match s.rng with
  | a :: _ => a
  | [] => Config.freeDraw s.draws

/-- The draw is made: its answer is used up (R254, "exactly one request"). -/
def takeDraw (s : State) : State :=
  match s.rng with
  | _ :: rest => { s with rng := rest }
  | [] => { s with draws := s.draws + 1 }

end Sys2Proof.Machine
end

