-- ==== Sys2Proof/Machine/Flags.lean ====
section
/-! DEFINITION. The result flag `T`, every computation that feeds it from one value (R28, R143, R144, R183,
R275), the words `STATUS`, `CTRL` read as (R31, R35), the clearing of `STATUS` bits (R31) and the
interrupt output (R290).
-/
namespace Sys2Proof.Machine

/-- `T <- v` (R12, R28). -/
def setT (s : State) (v : Bool) : State := { s with flagT := v }

/-- `is_neg`: the parity of the canonical value (R17, R143). -/
def isNeg (v : Fe) : Bool := decide (v.val % 2 = 1)

/-- `FE_IS_NZ`'s predicate, on the canonical value (R144). -/
def isNonZero (v : Fe) : Bool := decide (v.val ≠ 0)

/-- `check_s_lt_l`: the integer of a 32-byte string is below ℓ (R183). -/
def scalarLtL (s : Bytes32) : Bool := decide (s.toNat < groupOrder)

/-- `ct_eq`: byte-string equality, computed by OR-ing the 32 byte differences and testing the result once
(R275). -/
def ctEq (a b : Bytes32) : Bool :=
  decide (((List.range 32).foldl (fun acc i => acc ||| (byteAt a i ^^^ byteAt b i)) 0#8) = 0#8)

/-- The word `STATUS` reads as: BUSY, DONE, ERR, T, ACCV in bits 0 to 4, the reserved bits 0 (R31). -/
def statusWord (s : State) : Word :=
  0#27 ++ BitVec.ofBool s.accv ++ BitVec.ofBool s.flagT ++ BitVec.ofBool s.err ++ BitVec.ofBool s.done ++
    BitVec.ofBool s.busy

/-- A write to `STATUS` (R31): a 1 in bit 1, 2 or 4 clears DONE, ERR or ACCV; clearing ERR also sets
`ERRCODE` to 0; a 0 has no effect and bits 0, 3 and 31:5 are ignored. -/
def writeStatus (s : State) (v : Word) : State :=
  let s := if v.getLsbD 1 then { s with done := false } else s
  let s := if v.getLsbD 2 then clearError s else s
  if v.getLsbD 4 then { s with accv := false } else s

/-- The word `CTRL` reads as: IE in bit 0; SRST and the reserved bits read as 0 (R35). -/
def ctrlWord (s : State) : Word := 0#31 ++ BitVec.ofBool s.ie

/-- The interrupt output: `irq = CTRL.IE AND STATUS.DONE`, a level (R290). -/
def State.irq (s : State) : Bool := s.ie && s.done

end Sys2Proof.Machine
end

