-- ==== Sys2Proof/Machine/Operands.lean ====
section
/-! DEFINITION. The operand forms of the commands and the checks that belong to them (R91, R93, R99):
F sources, G sources with the variant a command needs, the operands in `ARG`, the destination overlap of
R101, the message. B and W operands cannot fail and are read by `readB` and `readW`.
-/
namespace Sys2Proof.Machine

/-- An F source: `ERR_EMPTY` when Empty (R99 (2), R131). -/
def needF (s : State) (r : Reg) : Except ErrCode Fe :=
  match readF s r with
  | none => .error .empty
  | some v => .ok v

/-- A G source that must hold P2: `ERR_EMPTY` when Empty, `ERR_TAG` for another variant (R99 (2), R210). -/
def needP2 (s : State) (r : Reg) : Except ErrCode P2 :=
  match readG s r with
  | none => .error .empty
  | some (.p2 v) => .ok v
  | some _ => .error .tag

/-- A G source that must hold P3 (R99 (2), R210). -/
def needP3 (s : State) (r : Reg) : Except ErrCode P3 :=
  match readG s r with
  | none => .error .empty
  | some (.p3 v) => .ok v
  | some _ => .error .tag

/-- A G source that must hold P1P1 (R99 (2), R210). -/
def needP1P1 (s : State) (r : Reg) : Except ErrCode P1P1 :=
  match readG s r with
  | none => .error .empty
  | some (.p1p1 v) => .ok v
  | some _ => .error .tag

/-- A G source that must hold Cached (R99 (2), R210). -/
def needCached (s : State) (r : Reg) : Except ErrCode Cached :=
  match readG s r with
  | none => .error .empty
  | some (.cached v) => .ok v
  | some _ => .error .tag

/-- A G source that must hold Precomp (R99 (2), R210). -/
def needPrecomp (s : State) (r : Reg) : Except ErrCode Precomp :=
  match readG s r with
  | none => .error .empty
  | some (.precomp v) => .ok v
  | some _ => .error .tag

/-- A G source of `GE_ENCODE`: P2 or P3, of which X, Y, Z are used (R206). -/
def needXYZ (s : State) (r : Reg) : Except ErrCode P2 :=
  match readG s r with
  | none => .error .empty
  | some (.p2 v) => .ok v
  | some (.p3 v) => .ok ⟨v.x, v.y, v.z⟩
  | some _ => .error .tag

/-- `FE_MUL_SMALL`'s constant: `ARG[31:0]`, unsigned (R93, R147). -/
def argSmall (s : State) : Nat := s.arg.toNat

/-- `FE_CSWAP`'s bit: `ARG[0]` (R93, R146). -/
def argSwapBit (s : State) : Bool := s.arg.getLsbD 0

/-- `GE_SELECT`'s position: `ARG[7:0]` (R93). -/
def argPos (s : State) : Nat := (byteAt s.arg 0).toNat

/-- `GE_SELECT`'s digit: `ARG[15:8]` in 8-bit two's complement (R93). -/
def argDigit (s : State) : Int := (byteAt s.arg 1).toInt

/-- `GE_SELECT`'s operands are in range: `ARG[31:16]` = 0, pos ≤ 31, −8 ≤ digit ≤ 8 (R93, R224). -/
def selectArgOk (s : State) : Bool :=
  decide (s.arg.extractLsb' 16 16 = 0#16) && decide (argPos s ≤ 31) &&
    decide (-8 ≤ argDigit s) && decide (argDigit s ≤ 8)

/-- The operands of `GE_SELECT`, or `ERR_ILLEGAL` (R93, R99 (3), R224). -/
def needSelectArg (s : State) : Except ErrCode (Nat × Int) :=
  if selectArgOk s then .ok (argPos s, argDigit s) else .error .illegal

/-- `GE_LOAD_BI`'s index: `ARG[31:0]` at most 7, or `ERR_ILLEGAL` (R93, R99 (3), R225). -/
def needBiIndex (s : State) : Except ErrCode Nat :=
  if s.arg.toNat ≤ 7 then .ok s.arg.toNat else .error .illegal

/-- The two destinations `W[rd]` and `B[ra]` overlap: `ra == 2·rd` or `ra == 2·rd + 1` (R101). -/
def destOverlap (rd ra : Reg) : Bool :=
  decide (ra.toNat = 2 * rd.toNat) || decide (ra.toNat = 2 * rd.toNat + 1)

/-- The overlap check of `ED_FROM_SEED`, `ED_FROM`, `ED_GENERATE` (R99 (3), R101). -/
def needDisjoint (rd ra : Reg) : Except ErrCode Unit :=
  if destOverlap rd ra then .error .illegal else .ok ()

/-- The message `M = MSG[0..MSGLEN)`, or `ERR_MSGLEN` when `MSGLEN > MSG_BYTES` (R36, R99 (4), R286). -/
def needMessage (s : State) : Except ErrCode (List Byte) :=
  if s.msglen.toNat ≤ Config.msgBytes then .ok (memFirst s.msg s.msglen.toNat) else .error .msglen

end Sys2Proof.Machine
end

