-- ==== Sys2Proof/Machine/Scalar.lean ====
section
/-! DEFINITION. The scalar commands of 43_scalar.md: arithmetic over the non-negative integers followed by
the remainder mod ℓ (R180). The radix-2^21 accumulators of R184 are hidden state and have no part here.
-/
namespace Sys2Proof.Machine

/-- `le_bytes(n mod ℓ, 32)` (R180). -/
def scalarOfNat (n : Nat) : Bytes32 := BitVec.ofNat 256 (n % groupOrder)

/-- `sc_reduce`: the 512-bit integer mod ℓ (R181). -/
def scReduce (s : Bytes64) : Bytes32 := scalarOfNat s.toNat

/-- `sc_muladd`: (a·b + c) mod ℓ, the inputs full 256-bit integers (R182). -/
def scMuladd (a b c : Bytes32) : Bytes32 := scalarOfNat (a.toNat * b.toNat + c.toNat)

/-- `SC_REDUCE Wd` (R181): writes `B[2·rd]` only. -/
def execScReduce (rd : Reg) (s : State) : Outcome :=
  command (.scReduce rd) s (.ok (writeB s (wLow rd) (scReduce (readW s rd))))

/-- `SC_MULADD Bd, Ba, Bb, Bc` (R182). -/
def execScMuladd (rd ra rb rc : Reg) (s : State) : Outcome :=
  command (.scMuladd rd ra rb rc) s (.ok (writeB s rd (scMuladd (readB s ra) (readB s rb) (readB s rc))))

/-- `SC_CHECK_LT_L Ba` (R183). -/
def execScCheckLtL (ra : Reg) (s : State) : Outcome :=
  command (.scCheckLtL ra) s (.ok (setT s (scalarLtL (readB s ra))))

end Sys2Proof.Machine
end

