-- ==== Sys2Proof/Machine/Field.lean ====
section
/-! DEFINITION. The field commands of 41_field.md at the level of field values, which is the architectural
level (R25, R130). `+`, `-`, `*`, unary `-` on `Fe` are the operations of R130.
-/
namespace Sys2Proof.Machine

/-! ## Functions of field values -/

/-- `fe_dec`, `from_bytes` (R17, R134): bit 255 dropped, then mod p. -/
def feDec (s : Bytes32) : Fe := feOfNat (s.toNat % 2 ^ 255)

/-- `fe_enc`, `to_bytes` (R17, R135): the 32 bytes of the canonical value. -/
def feEnc (v : Fe) : Bytes32 := BitVec.ofNat 256 v.val

/-- Square and multiply over the low `k` bits of the exponent `n`. -/
def fePowBits (a : Fe) : Nat → Nat → Fe
  | 0, _ => 1
  | k + 1, n =>
    let r := fePowBits a k (n / 2)
    if n % 2 = 1 then r * r * a else r * r

/-- `a^n mod p` for an exponent below 2^256 (R141, R142). -/
def fePow (a : Fe) (n : Nat) : Fe := fePowBits a 256 n

/-- `invert`: `a^(p−2)`, so that 0 gives 0 (R141). -/
def feInvert (a : Fe) : Fe := fePow a (prime25519 - 2)

/-- `pow_p_minus_5_over_8`: `a^((p−5)/8)` (R142). -/
def fePow2523 (a : Fe) : Fe := fePow a ((prime25519 - 5) / 8)

/-- `square` (R139). -/
def feSquare (a : Fe) : Fe := a * a

/-- `square_and_double`: 2·a² (R140). -/
def feSquareDouble (a : Fe) : Fe := feOfNat (2 * (a.val * a.val))

/-- `mul_small` (R147): the product with an unsigned integer constant, mod p. -/
def feMulSmall (a : Fe) (k : Nat) : Fe := feOfNat (a.val * k)

/-- `negate` (R145): `(p − a) mod p`. -/
def feNegate (a : Fe) : Fe := feOfNat (prime25519 - a.val)

/-- `conditional_swap` (R146): the pair exchanged when the bit is 1. -/
def feCswap (bit : Bool) (a b : Fe) : Fe × Fe := if bit then (b, a) else (a, b)

/-! ## The shapes the commands share -/

/-- `F[rd] <- op(F[ra])` (R131). -/
def feUnary (s : State) (rd ra : Reg) (op : Fe → Fe) : Except ErrCode State := do
  let a ← needF s ra
  return putF s rd (some (op a))

/-- `F[rd] <- op(F[ra], F[rb])`, ra checked before rb (R99, R131). -/
def feBinary (s : State) (rd ra rb : Reg) (op : Fe → Fe → Fe) : Except ErrCode State := do
  let a ← needF s ra
  let b ← needF s rb
  return putF s rd (some (op a b))

/-! ## The commands -/

/-- `FE_ZERO Fd` (R132). -/
def execFeZero (rd : Reg) (s : State) : Outcome := command (.feZero rd) s (.ok (putF s rd (some 0)))

/-- `FE_ONE Fd` (R133). -/
def execFeOne (rd : Reg) (s : State) : Outcome := command (.feOne rd) s (.ok (putF s rd (some 1)))

/-- `FE_FROM_BYTES Fd, Ba` (R134). -/
def execFeFromBytes (rd ra : Reg) (s : State) : Outcome :=
  command (.feFromBytes rd ra) s (.ok (putF s rd (some (feDec (readB s ra)))))

/-- `FE_TO_BYTES Bd, Fa` (R135). -/
def execFeToBytes (rd ra : Reg) (s : State) : Outcome :=
  command (.feToBytes rd ra) s do
    let a ← needF s ra
    return writeB s rd (feEnc a)

/-- `FE_ADD Fd, Fa, Fb` (R136). -/
def execFeAdd (rd ra rb : Reg) (s : State) : Outcome :=
  command (.feAdd rd ra rb) s (feBinary s rd ra rb fun a b => a + b)

/-- `FE_SUB Fd, Fa, Fb` (R137). -/
def execFeSub (rd ra rb : Reg) (s : State) : Outcome :=
  command (.feSub rd ra rb) s (feBinary s rd ra rb fun a b => a - b)

/-- `FE_MUL Fd, Fa, Fb` (R138). -/
def execFeMul (rd ra rb : Reg) (s : State) : Outcome :=
  command (.feMul rd ra rb) s (feBinary s rd ra rb fun a b => a * b)

/-- `FE_SQ Fd, Fa` (R139). -/
def execFeSq (rd ra : Reg) (s : State) : Outcome := command (.feSq rd ra) s (feUnary s rd ra feSquare)

/-- `FE_SQ2 Fd, Fa` (R140). -/
def execFeSq2 (rd ra : Reg) (s : State) : Outcome := command (.feSq2 rd ra) s (feUnary s rd ra feSquareDouble)

/-- `FE_MUL_SMALL Fd, Fa` (R147): the constant is `ARG`, unsigned. -/
def execFeMulSmall (rd ra : Reg) (s : State) : Outcome :=
  command (.feMulSmall rd ra) s (feUnary s rd ra fun a => feMulSmall a (argSmall s))

/-- `FE_INVERT Fd, Fa` (R141). -/
def execFeInvert (rd ra : Reg) (s : State) : Outcome := command (.feInvert rd ra) s (feUnary s rd ra feInvert)

/-- `FE_POW2523 Fd, Fa` (R142). -/
def execFePow2523 (rd ra : Reg) (s : State) : Outcome := command (.fePow2523 rd ra) s (feUnary s rd ra fePow2523)

/-- `FE_IS_NEG Fa` (R143): `T <- F[ra] & 1`. -/
def execFeIsNeg (ra : Reg) (s : State) : Outcome :=
  command (.feIsNeg ra) s do
    let a ← needF s ra
    return setT s (isNeg a)

/-- `FE_IS_NZ Fa` (R144): `T <- 1 if F[ra] != 0 else 0`. -/
def execFeIsNz (ra : Reg) (s : State) : Outcome :=
  command (.feIsNz ra) s do
    let a ← needF s ra
    return setT s (isNonZero a)

/-- `FE_NEG Fd, Fa` (R145). -/
def execFeNeg (rd ra : Reg) (s : State) : Outcome := command (.feNeg rd ra) s (feUnary s rd ra feNegate)

/-- `FE_CSWAP Fa, Fb` (R146): both sources are read, for either bit value, then both are written. -/
def execFeCswap (ra rb : Reg) (s : State) : Outcome :=
  command (.feCswap ra rb) s do
    let a ← needF s ra
    let b ← needF s rb
    let swapped := feCswap (argSwapBit s) a b
    return putF (putF s ra (some swapped.1)) rb (some swapped.2)

end Sys2Proof.Machine
end

