-- ==== Sys2Proof/Machine/Group.lean ====
section
/-! DEFINITION. The group commands of 44_group.md: the conversions, additions and doublings of the five
point formats, compression and decompression; and the affine group law the formats stand for (R195),
which the statements about them use.
-/
namespace Sys2Proof.Machine

/-! ## The curve and what the formats stand for (R190 to R195) -/

/-- `−x² + y² = 1 + d·x²·y²` (R195). -/
def onCurve (q : Affine) : Prop := q.y * q.y - q.x * q.x = 1 + constD * (q.x * q.x) * (q.y * q.y)

/-- The affine addition law of R195, division as multiplication by `a^(p−2)` (R130). -/
def affineAdd (a b : Affine) : Affine where
  x := (a.x * b.y + b.x * a.y) * feInvert (1 + constD * a.x * b.x * a.y * b.y)
  y := (a.y * b.y + a.x * b.x) * feInvert (1 - constD * a.x * b.x * a.y * b.y)

/-- `n·P`: P added to the neutral element n times (R195). -/
def affineMul (q : Affine) : Nat → Affine
  | 0 => ⟨0, 1⟩
  | n + 1 => affineAdd (affineMul q n) q

/-- The Precomp form of an affine point (R194). -/
def precompOf (q : Affine) : Precomp := ⟨q.y + q.x, q.y - q.x, constD2 * (q.x * q.y)⟩

/-! ## Conversions -/

/-- The neutral element (0, 1, 1, 0) in extended coordinates (R196). -/
def identP3 : P3 := ⟨0, 1, 1, 0⟩

/-- `P3_TO_CACHED` (R197). -/
def p3ToCached (v : P3) : Cached := ⟨v.y + v.x, v.y - v.x, v.z, constD2 * v.t⟩

/-- `P3_TO_P2` (R198): T is dropped. -/
def p3ToP2 (v : P3) : P2 := ⟨v.x, v.y, v.z⟩

/-- `P1P1_TO_P2` (R199). -/
def p1p1ToP2 (v : P1P1) : P2 := ⟨v.x * v.t, v.y * v.z, v.z * v.t⟩

/-- `P1P1_TO_P3` (R200). -/
def p1p1ToP3 (v : P1P1) : P3 := ⟨v.x * v.t, v.y * v.z, v.z * v.t, v.x * v.y⟩

/-! ## Addition, subtraction, doubling -/

/-- `P3 + Cached → P1P1` (R201). -/
def geAdd (u : P3) (v : Cached) : P1P1 :=
  let a := (u.y + u.x) * v.yPlusX
  let b := (u.y - u.x) * v.yMinusX
  let c := v.t2d * u.t
  let zz := u.z * v.z
  let d := zz + zz
  ⟨a - b, a + b, d + c, d - c⟩

/-- `P3 − Cached → P1P1` (R202): Y+X and Y−X exchanged, C with the opposite sign. -/
def geSub (u : P3) (v : Cached) : P1P1 :=
  let a := (u.y + u.x) * v.yMinusX
  let b := (u.y - u.x) * v.yPlusX
  let c := v.t2d * u.t
  let zz := u.z * v.z
  let d := zz + zz
  ⟨a - b, a + b, d - c, d + c⟩

/-- `P3 + Precomp → P1P1` (R203): Z2 implicitly 1. -/
def geMadd (u : P3) (v : Precomp) : P1P1 :=
  let a := (u.y + u.x) * v.yPlusX
  let b := (u.y - u.x) * v.yMinusX
  let c := v.xy2d * u.t
  let d := u.z + u.z
  ⟨a - b, a + b, d + c, d - c⟩

/-- `P3 − Precomp → P1P1` (R204). -/
def geMsub (u : P3) (v : Precomp) : P1P1 :=
  let a := (u.y + u.x) * v.yMinusX
  let b := (u.y - u.x) * v.yPlusX
  let c := v.xy2d * u.t
  let d := u.z + u.z
  ⟨a - b, a + b, d - c, d + c⟩

/-- `P2.double() → P1P1` (R205). -/
def p2Dbl (v : P2) : P1P1 :=
  let xx := feSquare v.x
  let yy := feSquare v.y
  let b := feSquareDouble v.z
  let aa := feSquare (v.x + v.y)
  let y3 := yy + xx
  let z3 := yy - xx
  ⟨aa - y3, y3, z3, b - z3⟩

/-- `P3.double()` via P2 (R209). -/
def p3Dbl (v : P3) : P1P1 := p2Dbl (p3ToP2 v)

/-! ## Compression and decompression -/

/-- Point compression (R206). -/
def encodePoint (v : P2) : Bytes32 :=
  let recip := feInvert v.z
  let x := v.x * recip
  let y := v.y * recip
  let s := feEnc y
  setByte s 31 (byteAt s 31 ^^^ (if isNeg x then 0x80#8 else 0#8))

/-- The candidate x of R212 and its two adjustments: `none` where `v·x²` is neither `u` nor `−u`. -/
def decodeX (u v : Fe) : Option Fe :=
  let x := fePow2523 (u * v) * u
  let vxx := v * (x * x)
  if vxx = u then some x
  else if vxx = feNegate u then some (x * constSqrtM1)
  else none

/-- The decompression function `decode(s)` (R212), `none` for a malformed point. -/
def decodePoint (s : Bytes32) : Option P3 :=
  let sign := s.getLsbD 255
  let y := feDec s
  let u := y * y - 1
  let v := constD * (y * y) + 1
  match decodeX u v with
  | none => none
  | some x =>
    let x := if isNeg x != sign then feNegate x else x
    some ⟨x, y, 1, x * y⟩

/-- The negative of a point in extended coordinates (R208). -/
def p3Negate (v : P3) : P3 := ⟨feNegate v.x, v.y, v.z, feNegate v.t⟩

/-! ## The shapes the commands share -/

/-- `G[rd] <- op(G[ra])`, `G[ra]` of the variant `need` asks for (R210). -/
def geUnary {α : Type} (s : State) (rd ra : Reg) (need : State → Reg → Except ErrCode α) (op : α → Point) :
    Except ErrCode State := do
  let a ← need s ra
  return putG s rd (some (op a))

/-- `G[rd] <- op(G[ra], G[rb])`, `G[ra]` a P3, `G[rb]` of the variant `need` asks for, ra first (R210). -/
def geBinary {α : Type} (s : State) (rd ra rb : Reg) (need : State → Reg → Except ErrCode α)
    (op : P3 → α → P1P1) : Except ErrCode State := do
  let a ← needP3 s ra
  let b ← need s rb
  return putG s rd (some (.p1p1 (op a b)))

/-- The destination of a decode (R207): the point and `T` = 1, or Empty and `T` = 0. -/
def putDecoded (s : State) (rd : Reg) (r : Option P3) : State :=
  match r with
  | none => setT (putG s rd none) false
  | some v => setT (putG s rd (some (.p3 v))) true

/-! ## The commands -/

/-- `GE_IDENT Gd` (R196). -/
def execGeIdent (rd : Reg) (s : State) : Outcome := command (.geIdent rd) s (.ok (putG s rd (some (.p3 identP3))))

/-- `GE_P3_TO_CACHED Gd, Ga` (R197). -/
def execGeP3ToCached (rd ra : Reg) (s : State) : Outcome :=
  command (.geP3ToCached rd ra) s (geUnary s rd ra needP3 fun v => .cached (p3ToCached v))

/-- `GE_P3_TO_P2 Gd, Ga` (R198). -/
def execGeP3ToP2 (rd ra : Reg) (s : State) : Outcome :=
  command (.geP3ToP2 rd ra) s (geUnary s rd ra needP3 fun v => .p2 (p3ToP2 v))

/-- `GE_P1P1_TO_P2 Gd, Ga` (R199). -/
def execGeP1p1ToP2 (rd ra : Reg) (s : State) : Outcome :=
  command (.geP1p1ToP2 rd ra) s (geUnary s rd ra needP1P1 fun v => .p2 (p1p1ToP2 v))

/-- `GE_P1P1_TO_P3 Gd, Ga` (R200). -/
def execGeP1p1ToP3 (rd ra : Reg) (s : State) : Outcome :=
  command (.geP1p1ToP3 rd ra) s (geUnary s rd ra needP1P1 fun v => .p3 (p1p1ToP3 v))

/-- `GE_ADD Gd, Ga, Gb` (R201). -/
def execGeAdd (rd ra rb : Reg) (s : State) : Outcome :=
  command (.geAdd rd ra rb) s (geBinary s rd ra rb needCached geAdd)

/-- `GE_SUB Gd, Ga, Gb` (R202). -/
def execGeSub (rd ra rb : Reg) (s : State) : Outcome :=
  command (.geSub rd ra rb) s (geBinary s rd ra rb needCached geSub)

/-- `GE_MADD Gd, Ga, Gb` (R203). -/
def execGeMadd (rd ra rb : Reg) (s : State) : Outcome :=
  command (.geMadd rd ra rb) s (geBinary s rd ra rb needPrecomp geMadd)

/-- `GE_MSUB Gd, Ga, Gb` (R204). -/
def execGeMsub (rd ra rb : Reg) (s : State) : Outcome :=
  command (.geMsub rd ra rb) s (geBinary s rd ra rb needPrecomp geMsub)

/-- `GE_P2_DBL Gd, Ga` (R205). -/
def execGeP2Dbl (rd ra : Reg) (s : State) : Outcome :=
  command (.geP2Dbl rd ra) s (geUnary s rd ra needP2 fun v => .p1p1 (p2Dbl v))

/-- `GE_P3_DBL Gd, Ga` (R209). -/
def execGeP3Dbl (rd ra : Reg) (s : State) : Outcome :=
  command (.geP3Dbl rd ra) s (geUnary s rd ra needP3 fun v => .p1p1 (p3Dbl v))

/-- `GE_ENCODE Bd, Ga` (R206). -/
def execGeEncode (rd ra : Reg) (s : State) : Outcome :=
  command (.geEncode rd ra) s do
    let v ← needXYZ s ra
    return writeB s rd (encodePoint v)

/-- `GE_DECODE Gd, Ba` (R207). -/
def execGeDecode (rd ra : Reg) (s : State) : Outcome :=
  command (.geDecode rd ra) s (.ok (putDecoded s rd (decodePoint (readB s ra))))

/-- `GE_DECODE_NEG Gd, Ba` (R208): the negative of the point `GE_DECODE` gives. -/
def execGeDecodeNeg (rd ra : Reg) (s : State) : Outcome :=
  command (.geDecodeNeg rd ra) s (.ok (putDecoded s rd ((decodePoint (readB s ra)).map p3Negate)))

end Sys2Proof.Machine
end

