-- ==== Sys2Proof/Machine/ScalarMult.lean ====
section
/-! DEFINITION. The table and scalar-multiplication commands of 45_scalarmult.md: `RECODE16`, `select`,
`slide`, and `GE_SELECT`, `GE_LOAD_BI`, `GE_SCALARMULT_BASE`, `GE_DOUBLE_SCALARMULT_VT`.
-/
namespace Sys2Proof.Machine

/-! ## Recoding in radix 16 (R222) -/

/-- The 64 nibbles of a scalar, low nibble of byte 0 first (R222). -/
def nibbles (a : Bytes32) : List Int := (List.range 64).map fun i => ((a.toNat / 16 ^ i % 16 : Nat) : Int)

/-- The carry loop of R222 from one digit on: `carry` comes in, and the last digit takes it whole. -/
def recodeFrom (carry : Int) : List Int → List Int
  | [] => []
  | e :: rest =>
    match rest with
    | [] => [e + carry]
    | _ :: _ =>
      let v := e + carry
      let c := (v + 8) / 16
      (v - 16 * c) :: recodeFrom c rest

/-- `RECODE16(a)`: 64 signed digits, index 0 first (R222). -/
def recode16 (a : Bytes32) : List Int := recodeFrom 0 (nibbles a)

/-! ## The constant-time selection (R223) -/

/-- `cmov(t, u, b)`: every coordinate of `t` replaced by that of `u` when the bit is 1 (R223). -/
def cmovPrecomp (t u : Precomp) (b : Bool) : Precomp :=
  ⟨(feCswap b t.yPlusX u.yPlusX).1, (feCswap b t.yMinusX u.yMinusX).1, (feCswap b t.xy2d u.xy2d).1⟩

/-- The negative of a table entry: swap and negate (R202, R223). -/
def negPrecomp (t : Precomp) : Precomp := ⟨t.yMinusX, t.yPlusX, feNegate t.xy2d⟩

/-- `select(pos, digit)`: all eight entries of the row are scanned, the match kept, the sign applied (R223). -/
def select (pos : Nat) (digit : Int) : Precomp :=
  let babs := digit.natAbs
  let t := (List.range 8).foldl (fun t j => cmovPrecomp t (baseEntry pos j) (decide (babs = j + 1))) neutralPrecomp
  cmovPrecomp t (negPrecomp t) (decide (digit < 0))

/-! ## Fixed-base multiplication (R226) -/

/-- One addition of the fixed-base loop: `h <- P1P1_TO_P3(MADD(h, select(i div 2, e[i])))` (R226). -/
def baseStep (e : List Int) (h : P3) (i : Nat) : P3 := p1p1ToP3 (geMadd h (select (i / 2) (e.getD i 0)))

/-- Multiplication by 16: four doublings (R226). -/
def timesSixteen (h : P3) : P3 :=
  let r := p3Dbl h
  let r := p2Dbl (p1p1ToP2 r)
  let r := p2Dbl (p1p1ToP2 r)
  let r := p2Dbl (p1p1ToP2 r)
  p1p1ToP3 r

/-- `ge_scalarmult_base`: the 32 odd-numbered digits, four doublings, the 32 even-numbered digits (R226). -/
def scalarmultBase (a : Bytes32) : P3 :=
  let e := recode16 a
  let h := ((List.range 32).map fun k => 2 * k + 1).foldl (baseStep e) identP3
  ((List.range 32).map fun k => 2 * k).foldl (baseStep e) (timesSixteen h)

/-! ## The sliding window (R228) -/

/-- The k-loop of R228: add 1 at the front and propagate the carry; off the end it is lost. -/
def carryFrom : List Int → List Int
  | [] => []
  | v :: rest => if v = 0 then 1 :: rest else 0 :: carryFrom rest

/-- The same, starting `n` places further on. -/
def carryAt : Nat → List Int → List Int
  | 0, l => carryFrom l
  | _ + 1, [] => []
  | n + 1, v :: rest => v :: carryAt n rest

/-- The b-loop of R228 at one position: `x` is r[i], `rest` is r[i+1], r[i+2], …; `fuel` counts the
values of b still to come and b runs up to 6. -/
def absorb : Nat → Nat → Int → List Int → Int × List Int
  | 0, _, x, rest => (x, rest)
  | fuel + 1, b, x, rest =>
    match rest[b - 1]? with
    | none => (x, rest)
    | some v =>
      if v = 0 then absorb fuel (b + 1) x rest
      else if x + v * 2 ^ b ≤ 15 then absorb fuel (b + 1) (x + v * 2 ^ b) (rest.set (b - 1) 0)
      else if x - v * 2 ^ b ≥ -15 then absorb fuel (b + 1) (x - v * 2 ^ b) (carryAt (b - 1) rest)
      else (x, rest)

/-- The i-loop of R228, from position i on; `fuel` counts the positions to come. -/
def slideFrom : Nat → List Int → List Int
  | 0, l => l
  | _ + 1, [] => []
  | fuel + 1, x :: rest =>
    if x = 0 then x :: slideFrom fuel rest
    else
      let r := absorb 6 1 x rest
      r.1 :: slideFrom fuel r.2

/-- The 256 bits of a scalar, bit 0 first (R228). -/
def scalarBits (a : Bytes32) : List Int := (List.range 256).map fun i => if a.getLsbD i then 1 else 0

/-- `slide(a)`: 256 digits, each 0 or odd in −15..15, index 0 first (R228). -/
def slide (a : Bytes32) : List Int := slideFrom 256 (scalarBits a)

/-! ## Variable-time double-scalar multiplication (R229) -/

/-- The eight odd multiples A, 3A, …, 15A as Cached values (R229). -/
def oddMultiples (a : P3) : List Cached :=
  let a2 := p1p1ToP3 (p3Dbl a)
  let next := fun (c : Cached) => p3ToCached (p1p1ToP3 (geAdd a2 c))
  let c0 := p3ToCached a
  let c1 := next c0
  let c2 := next c1
  let c3 := next c2
  let c4 := next c3
  let c5 := next c4
  let c6 := next c5
  let c7 := next c6
  [c0, c1, c2, c3, c4, c5, c6, c7]

/-- The neutral element as Cached: what the table of odd multiples reads as beyond its eight entries, which
no digit of `slide` reaches (R228, log entry 11). -/
def neutralCached : Cached := p3ToCached identP3

/-- The addition of one digit of `a`: nothing, an addition or a subtraction of `Ai[|digit| div 2]` (R229). -/
def addOddMultiple (tbl : List Cached) (digit : Int) (t : P1P1) : P1P1 :=
  if digit > 0 then geAdd (p1p1ToP3 t) (tbl.getD (digit.natAbs / 2) neutralCached)
  else if digit < 0 then geSub (p1p1ToP3 t) (tbl.getD (digit.natAbs / 2) neutralCached)
  else t

/-- The addition of one digit of `b`: nothing, a mixed addition or subtraction of `BI[|digit| div 2]` (R229). -/
def addBi (digit : Int) (t : P1P1) : P1P1 :=
  if digit > 0 then geMadd (p1p1ToP3 t) (biEntry (digit.natAbs / 2))
  else if digit < 0 then geMsub (p1p1ToP3 t) (biEntry (digit.natAbs / 2))
  else t

/-- One position of the double-and-add loop (R229). -/
def doubleScalarStep (tbl : List Cached) (r : P2) (digits : Int × Int) : P2 :=
  p1p1ToP2 (addBi digits.2 (addOddMultiple tbl digits.1 (p2Dbl r)))

/-- `ge_double_scalarmult_vartime(a, A, b)`: a·A + b·B, from the highest position where a digit is not 0 down
to position 0 (R229). -/
def doubleScalarmult (a : Bytes32) (pt : P3) (b : Bytes32) : P2 :=
  let digits := ((slide a).zip (slide b)).reverse.dropWhile fun d => decide (d.1 = 0) && decide (d.2 = 0)
  digits.foldl (doubleScalarStep (oddMultiples pt)) ⟨0, 1, 1⟩

/-! ## The commands -/

/-- `GE_SELECT Gd` (R224). -/
def execGeSelect (rd : Reg) (s : State) : Outcome :=
  command (.geSelect rd) s do
    let arg ← needSelectArg s
    return putG s rd (some (.precomp (select arg.1 arg.2)))

/-- `GE_LOAD_BI Gd` (R225). -/
def execGeLoadBi (rd : Reg) (s : State) : Outcome :=
  command (.geLoadBi rd) s do
    let index ← needBiIndex s
    return putG s rd (some (.precomp (biEntry index)))

/-- `GE_SCALARMULT_BASE Gd, Ba` (R226, R227). -/
def execGeScalarmultBase (rd ra : Reg) (s : State) : Outcome :=
  command (.geScalarmultBase rd ra) s (.ok (putG s rd (some (.p3 (scalarmultBase (readB s ra))))))

/-- `GE_DOUBLE_SCALARMULT_VT Gd, Ba, Gb, Bc` (R229). -/
def execGeDoubleScalarmultVt (rd ra rb rc : Reg) (s : State) : Outcome :=
  command (.geDoubleScalarmultVt rd ra rb rc) s do
    let pt ← needP3 s rb
    return putG s rd (some (.p2 (doubleScalarmult (readB s ra) pt (readB s rc))))

end Sys2Proof.Machine
end

