-- ==== Sys2Proof/Machine/Sha512.lean ====
section
/-! DEFINITION. The hash port: a total, deterministic, stateless function from byte strings to 64 bytes
(R271), fixed to the SHA-512 of R272. Its words are 64 bits and big-endian in the byte strings; it is the
only big-endian arithmetic of the engine (R72).
-/
namespace Sys2Proof.Machine

/-- A 64-bit word of SHA-512 (R272). -/
abbrev HashWord := BitVec 64

/-- The eight working variables a..h, and the chaining value H[0..7] (R272). -/
structure HashState where
  a : HashWord
  b : HashWord
  c : HashWord
  d : HashWord
  e : HashWord
  f : HashWord
  g : HashWord
  h : HashWord
  deriving DecidableEq, Repr

/-- H0 (R272). -/
def sha512H0 : HashState where
  a := 0x6a09e667f3bcc908#64
  b := 0xbb67ae8584caa73b#64
  c := 0x3c6ef372fe94f82b#64
  d := 0xa54ff53a5f1d36f1#64
  e := 0x510e527fade682d1#64
  f := 0x9b05688c2b3e6c1f#64
  g := 0x1f83d9abfb41bd6b#64
  h := 0x5be0cd19137e2179#64

/-- K[0..79] (R272). -/
def sha512K : List HashWord :=
  [0x428a2f98d728ae22#64, 0x7137449123ef65cd#64, 0xb5c0fbcfec4d3b2f#64, 0xe9b5dba58189dbbc#64,
   0x3956c25bf348b538#64, 0x59f111f1b605d019#64, 0x923f82a4af194f9b#64, 0xab1c5ed5da6d8118#64,
   0xd807aa98a3030242#64, 0x12835b0145706fbe#64, 0x243185be4ee4b28c#64, 0x550c7dc3d5ffb4e2#64,
   0x72be5d74f27b896f#64, 0x80deb1fe3b1696b1#64, 0x9bdc06a725c71235#64, 0xc19bf174cf692694#64] ++
  [0xe49b69c19ef14ad2#64, 0xefbe4786384f25e3#64, 0x0fc19dc68b8cd5b5#64, 0x240ca1cc77ac9c65#64,
   0x2de92c6f592b0275#64, 0x4a7484aa6ea6e483#64, 0x5cb0a9dcbd41fbd4#64, 0x76f988da831153b5#64,
   0x983e5152ee66dfab#64, 0xa831c66d2db43210#64, 0xb00327c898fb213f#64, 0xbf597fc7beef0ee4#64,
   0xc6e00bf33da88fc2#64, 0xd5a79147930aa725#64, 0x06ca6351e003826f#64, 0x142929670a0e6e70#64] ++
  [0x27b70a8546d22ffc#64, 0x2e1b21385c26c926#64, 0x4d2c6dfc5ac42aed#64, 0x53380d139d95b3df#64,
   0x650a73548baf63de#64, 0x766a0abb3c77b2a8#64, 0x81c2c92e47edaee6#64, 0x92722c851482353b#64,
   0xa2bfe8a14cf10364#64, 0xa81a664bbc423001#64, 0xc24b8b70d0f89791#64, 0xc76c51a30654be30#64,
   0xd192e819d6ef5218#64, 0xd69906245565a910#64, 0xf40e35855771202a#64, 0x106aa07032bbd1b8#64] ++
  [0x19a4c116b8d2d0c8#64, 0x1e376c085141ab53#64, 0x2748774cdf8eeb99#64, 0x34b0bcb5e19b48a8#64,
   0x391c0cb3c5c95a63#64, 0x4ed8aa4ae3418acb#64, 0x5b9cca4f7763e373#64, 0x682e6ff3d6b2b8a3#64,
   0x748f82ee5defb2fc#64, 0x78a5636f43172f60#64, 0x84c87814a1f0ab72#64, 0x8cc702081a6439ec#64,
   0x90befffa23631e28#64, 0xa4506cebde82bde9#64, 0xbef9a3f7b2c67915#64, 0xc67178f2e372532b#64] ++
  [0xca273eceea26619c#64, 0xd186b8c721c0c207#64, 0xeada7dd6cde0eb1e#64, 0xf57d4f7fee6ed178#64,
   0x06f067aa72176fba#64, 0x0a637dc5a2c898a6#64, 0x113f9804bef90dae#64, 0x1b710b35131c471b#64,
   0x28db77f523047d84#64, 0x32caab7b40c72493#64, 0x3c9ebe0a15c9bebc#64, 0x431d67c49c100d4c#64,
   0x4cc5d4becb3e42b6#64, 0x597f299cfc657e2a#64, 0x5fcb6fab3ad6faec#64, 0x6c44198c4a475817#64]

/-- A list of bytes as a big-endian number (R272). -/
def intBe : List Byte → Nat
  | [] => 0
  | b :: rest => b.toNat * 256 ^ rest.length + intBe rest

/-- The `n` big-endian bytes of a number (R272). -/
def beBytes (n v : Nat) : List Byte := (List.range n).map fun i => BitVec.ofNat 8 (v / 256 ^ (n - 1 - i))

/-- `pad(M)`: 0x80, zero bytes until the length is 112 mod 128, the bit length as a 128-bit big-endian
integer (R272). -/
def sha512Pad (m : List Byte) : List Byte :=
  m ++ [0x80#8] ++ List.replicate ((239 - m.length % 128) % 128) 0#8 ++ beBytes 16 (8 * m.length)

/-- The w[0..15] of a block: sixteen big-endian 64-bit words (R272). -/
def sha512Words (block : List Byte) : List HashWord :=
  (List.range 16).map fun i => BitVec.ofNat 64 (intBe ((block.drop (8 * i)).take 8))

/-- w[t] from the sixteen words w[t−16..t−1], oldest first (R272). -/
def sha512NextWord (w : List HashWord) : HashWord :=
  let w15 := w.getD 1 0#64
  let w2 := w.getD 14 0#64
  let s0 := w15.rotateRight 1 ^^^ w15.rotateRight 8 ^^^ (w15 >>> 7)
  let s1 := w2.rotateRight 19 ^^^ w2.rotateRight 61 ^^^ (w2 >>> 6)
  w.getD 0 0#64 + s0 + w.getD 9 0#64 + s1

/-- One round with the round constant `k` and the schedule word `w` (R272). -/
def sha512Round (v : HashState) (k w : HashWord) : HashState :=
  let s1 := v.e.rotateRight 14 ^^^ v.e.rotateRight 18 ^^^ v.e.rotateRight 41
  let ch := (v.e &&& v.f) ^^^ (~~~v.e &&& v.g)
  let t1 := v.h + s1 + ch + k + w
  let s0 := v.a.rotateRight 28 ^^^ v.a.rotateRight 34 ^^^ v.a.rotateRight 39
  let maj := (v.a &&& v.b) ^^^ (v.a &&& v.c) ^^^ (v.b &&& v.c)
  ⟨t1 + (s0 + maj), v.a, v.b, v.c, v.d + t1, v.e, v.f, v.g⟩

/-- The rounds of the round constants `ks`, `w` the sixteen schedule words from the current one on (R272). -/
def sha512Rounds : List HashWord → List HashWord → HashState → HashState
  | [], _, v => v
  | k :: ks, w, v => sha512Rounds ks (w.drop 1 ++ [sha512NextWord w]) (sha512Round v k (w.getD 0 0#64))

/-- One block: `H <- H + (a, …, h)`, word by word (R272). -/
def sha512Block (h : HashState) (block : List Byte) : HashState :=
  let v := sha512Rounds sha512K (sha512Words block) h
  ⟨h.a + v.a, h.b + v.b, h.c + v.c, h.d + v.d, h.e + v.e, h.f + v.f, h.g + v.g, h.h + v.h⟩

/-- The next `n` 128-byte blocks, in order (R272). -/
def sha512Blocks : Nat → List Byte → HashState → HashState
  | 0, _, h => h
  | n + 1, m, h => sha512Blocks n (m.drop 128) (sha512Block h (m.take 128))

/-- The 64 digest bytes H[0] ‖ … ‖ H[7], each word big-endian (R272). -/
def sha512Digest (h : HashState) : List Byte :=
  [h.a, h.b, h.c, h.d, h.e, h.f, h.g, h.h].flatMap fun x => beBytes 8 x.toNat

/-- `SHA512(s)`, the answer of the hash port, as a 64-byte string (R16, R271, R272). -/
def sha512 (m : List Byte) : Bytes64 :=
  let padded := sha512Pad m
  BitVec.ofNat 512 (intLe (sha512Digest (sha512Blocks (padded.length / 128) padded sha512H0)))

end Sys2Proof.Machine
end

