-- ==== Sys2Proof/Machine/Ed25519.lean ====
section
/-! DEFINITION. The Ed25519 commands of 47_ed25519.md: key expansion, key generation, signing, verification,
over the hash port and the random port of 48_ports.md.
-/
namespace Sys2Proof.Machine

/-- `s[0..32)` of a 64-byte string (R10). -/
def firstHalf (s : Bytes64) : Bytes32 := s.extractLsb' 0 256

/-- `s[32..64)` of a 64-byte string (R10). -/
def secondHalf (s : Bytes64) : Bytes32 := s.extractLsb' 256 256

/-- `a ‖ b` of two 32-byte strings, `a` first (R10). -/
def joinHalves (a b : Bytes32) : Bytes64 := b ++ a

/-- `ed_expand(seed)`: the hash, its first 32 bytes clamped (R251). -/
def edExpand (seed : Bytes32) : Bytes64 := clamp (sha512 (bytesOf 32 seed))

/-- `encode(ge_scalarmult_base(a))` (R252, R255). -/
def basePublic (a : Bytes32) : Bytes32 := encodePoint (p3ToP2 (scalarmultBase a))

/-- `SigningKey::from` on the 64-byte key string: `az` and the public half, copied unchecked (R253). -/
def edFrom (key : Bytes64) : Bytes64 × Bytes32 := (edExpand (firstHalf key), secondHalf key)

/-- `SigningKey::from_seed`: the public key from the clamped scalar, then `from(seed ‖ pk)` (R252). -/
def edFromSeed (seed : Bytes32) : Bytes64 × Bytes32 :=
  edFrom (joinHalves seed (basePublic (firstHalf (edExpand seed))))

/-- `W[rd] <- az ; B[ra] <- pk` (R252, R253, R254). -/
def putKeyPair (s : State) (rd ra : Reg) (key : Bytes64 × Bytes32) : State := writeB (writeW s rd key.1) ra key.2

/-- The challenge `SHA512(R ‖ pk ‖ M) mod ℓ` (R255, R256). -/
def edChallenge (r pk : Bytes32) (m : List Byte) : Bytes32 := scReduce (sha512 (bytesOf 32 r ++ bytesOf 32 pk ++ m))

/-- `sign(msg)` (R255): R ‖ S. -/
def edSign (az : Bytes64) (pk : Bytes32) (m : List Byte) : Bytes64 :=
  let r := scReduce (sha512 (bytesOf 32 (secondHalf az) ++ m))
  let rb := basePublic r
  let k := edChallenge rb pk m
  joinHalves rb (scMuladd k (firstHalf az) r)

/-- `verify(msg, sig)` (R256): the three rejections, then `encode(k·(−A) + S·B)` against R. -/
def edVerify (pk : Bytes32) (sig : Bytes64) (m : List Byte) : Bool :=
  if !scalarLtL (secondHalf sig) then false
  else if pk = 0#256 then false
  else
    match (decodePoint pk).map p3Negate with
    | none => false
    | some negA =>
      ctEq (encodePoint (doubleScalarmult (edChallenge (firstHalf sig) pk m) negA (secondHalf sig))) (firstHalf sig)

/-- `ED_FROM_SEED Wd, Ba, Bb` (R252). -/
def execEdFromSeed (rd ra rb : Reg) (s : State) : Outcome :=
  command (.edFromSeed rd ra rb) s do
    needDisjoint rd ra
    return putKeyPair s rd ra (edFromSeed (readB s rb))

/-- `ED_FROM Wd, Ba, Wb` (R253). -/
def execEdFrom (rd ra rb : Reg) (s : State) : Outcome :=
  command (.edFrom rd ra rb) s do
    needDisjoint rd ra
    return putKeyPair s rd ra (edFrom (readW s rb))

/-- The execution of `ED_GENERATE` with the port's answer in hand: `ERR_INVALID_KEY` on failure (R254, R274). -/
def generateFrom (s : State) (rd ra : Reg) (draw : Option Bytes32) : Except ErrCode State :=
  match draw with
  | none => .error .invalidKey
  | some seed => .ok (putKeyPair s rd ra (edFromSeed seed))

/-- `ED_GENERATE Wd, Ba` (R254): where a check of R99 (1) or (3) fails the port is not consulted (R288), else
exactly one draw is made, also when its answer is "failure". -/
def execEdGenerate (rd ra : Reg) (s : State) : Outcome :=
  if (Instr.edGenerate rd ra).wf && !destOverlap rd ra then
    command (.edGenerate rd ra) (takeDraw s) (generateFrom (takeDraw s) rd ra (nextDraw s))
  else command (.edGenerate rd ra) s (.error .illegal)

/-- `ED_SIGN Wd, Wa, Bb` (R255). -/
def execEdSign (rd ra rb : Reg) (s : State) : Outcome :=
  command (.edSign rd ra rb) s do
    let m ← needMessage s
    return writeW s rd (edSign (readW s ra) (readB s rb) m)

/-- `ED_VERIFY Ba, Wb` (R256): only `T` changes. -/
def execEdVerify (ra rb : Reg) (s : State) : Outcome :=
  command (.edVerify ra rb) s do
    let m ← needMessage s
    return setT s (edVerify (readB s ra) (readW s rb) m)

end Sys2Proof.Machine
end

