-- ==== Sys2Proof/Machine/System.lean ====
section
/-! DEFINITION. The system commands of 40_system.md: `NOP`, `WIPE_ALL`, `FE_WIPE`, `GE_WIPE`, `B_WIPE`.
-/
namespace Sys2Proof.Machine

/-- R121's pseudocode: every F and G register Empty, every B register and byte of `MSG` zero, `MSGLEN`,
`ARG` and `T` 0; `CTRL`, `ERRCODE`, ERR and ACCV unchanged. -/
def wipeAll (s : State) : State :=
  { s with
    f := Vector.replicate Config.nfe none
    g := Vector.replicate Config.nge none
    b := Vector.replicate Config.nb 0#256
    msg := []
    msglen := 0#32
    arg := 0#32
    flagT := false }

/-- `NOP` (R120). -/
def execNop (s : State) : Outcome := command .nop s (.ok s)

/-- `WIPE_ALL` (R121). -/
def execWipeAll (s : State) : Outcome := command .wipeAll s (.ok (wipeAll s))

/-- `FE_WIPE Fd` (R122): `F[rd] <- Empty`. -/
def execFeWipe (rd : Reg) (s : State) : Outcome := command (.feWipe rd) s (.ok (putF s rd none))

/-- `GE_WIPE Gd` (R123): `G[rd] <- Empty`. -/
def execGeWipe (rd : Reg) (s : State) : Outcome := command (.geWipe rd) s (.ok (putG s rd none))

/-- `B_WIPE Bd` (R124): `B[rd] <- 32 zero bytes`. -/
def execBWipe (rd : Reg) (s : State) : Outcome := command (.bWipe rd) s (.ok (writeB s rd 0#256))

end Sys2Proof.Machine
end

