-- ==== Sys2Proof/Machine/X25519.lean ====
section
/-! DEFINITION. The X25519 commands of 46_x25519.md: the Montgomery ladder on B registers (R240, R241).
-/
namespace Sys2Proof.Machine

/-- The temporaries that one ladder iteration hands to the next (R241). They live inside one completion step
and are no state (R40). -/
structure LadderVars where
  x2 : Fe
  z2 : Fe
  x3 : Fe
  z3 : Fe
  swap : Bool
  deriving DecidableEq, Repr

/-- The two conditional swaps of the pairs (x2, z2) and (x3, z3) (R241). -/
def ladderSwap (bit : Bool) (v : LadderVars) : LadderVars :=
  let xs := feCswap bit v.x2 v.x3
  let zs := feCswap bit v.z2 v.z3
  ⟨xs.1, zs.1, xs.2, zs.2, v.swap⟩

/-- One iteration for the scalar bit `bit` (R241): the swap by the running XOR, then the differential
addition and doubling. -/
def ladderStep (x1 : Fe) (bit : Bool) (v : LadderVars) : LadderVars :=
  let v := ladderSwap (v.swap ^^ bit) v
  let a := v.x2 + v.z2
  let b := v.x2 - v.z2
  let c := v.x3 + v.z3
  let dm := v.x3 - v.z3
  let da := dm * a
  let cb := c * b
  let aa := feSquare a
  let bb := feSquare b
  let e := aa - bb
  { x3 := feSquare (da + cb)
    z3 := x1 * feSquare (da - cb)
    x2 := aa * bb
    z2 := e * (bb + feMulSmall e const121666)
    swap := bit }

/-- The iterations for the positions n−1, n−2, …, 0 of the clamped scalar `e` (R241). -/
def ladderLoop (e : Bytes32) (x1 : Fe) : Nat → LadderVars → LadderVars
  | 0, v => v
  | pos + 1, v => ladderLoop e x1 pos (ladderStep x1 (e.getLsbD pos) v)

/-- `ladder(n, pu)` (R241): 255 iterations, the final swap, `x2 · z2^(p−2)` encoded. -/
def ladder (n pu : Bytes32) : Bytes32 :=
  let x1 := feDec pu
  let v := ladderLoop (clamp n) x1 255 ⟨1, 0, x1, 1, false⟩
  let v := ladderSwap v.swap v
  feEnc (v.x2 * feInvert v.z2)

/-- `X25519 Bd, Ba, Bb` (R242). -/
def execX25519 (rd ra rb : Reg) (s : State) : Outcome :=
  command (.x25519 rd ra rb) s (.ok (writeB s rd (ladder (readB s ra) (readB s rb))))

/-- `X25519_BASE Bd, Ba` (R243): the ladder with u = 9. -/
def execX25519Base (rd ra : Reg) (s : State) : Outcome :=
  command (.x25519Base rd ra) s (.ok (writeB s rd (ladder (readB s ra) x25519BaseU)))

end Sys2Proof.Machine
end

