-- ==== Sys2Proof/Machine/Dispatch.lean ====
section
/-! DEFINITION. The meaning of every command: its completion step (R296), one arm per row of R96.
-/
namespace Sys2Proof.Machine

/-- The completion step of a command (R296). -/
def exec (i : Instr) (s : State) : Host.Outcome State Fault Refusal :=
  match i with
  | .nop => Sys2Proof.Machine.execNop s
  | .wipeAll => Sys2Proof.Machine.execWipeAll s
  | .feWipe rd => Sys2Proof.Machine.execFeWipe rd s
  | .geWipe rd => Sys2Proof.Machine.execGeWipe rd s
  | .bWipe rd => Sys2Proof.Machine.execBWipe rd s
  | .feZero rd => Sys2Proof.Machine.execFeZero rd s
  | .feOne rd => Sys2Proof.Machine.execFeOne rd s
  | .feFromBytes rd ra => Sys2Proof.Machine.execFeFromBytes rd ra s
  | .feToBytes rd ra => Sys2Proof.Machine.execFeToBytes rd ra s
  | .feAdd rd ra rb => Sys2Proof.Machine.execFeAdd rd ra rb s
  | .feSub rd ra rb => Sys2Proof.Machine.execFeSub rd ra rb s
  | .feMul rd ra rb => Sys2Proof.Machine.execFeMul rd ra rb s
  | .feSq rd ra => Sys2Proof.Machine.execFeSq rd ra s
  | .feSq2 rd ra => Sys2Proof.Machine.execFeSq2 rd ra s
  | .feMulSmall rd ra => Sys2Proof.Machine.execFeMulSmall rd ra s
  | .feInvert rd ra => Sys2Proof.Machine.execFeInvert rd ra s
  | .fePow2523 rd ra => Sys2Proof.Machine.execFePow2523 rd ra s
  | .feIsNeg ra => Sys2Proof.Machine.execFeIsNeg ra s
  | .feIsNz ra => Sys2Proof.Machine.execFeIsNz ra s
  | .feNeg rd ra => Sys2Proof.Machine.execFeNeg rd ra s
  | .feCswap ra rb => Sys2Proof.Machine.execFeCswap ra rb s
  | .scReduce rd => Sys2Proof.Machine.execScReduce rd s
  | .scMuladd rd ra rb rc => Sys2Proof.Machine.execScMuladd rd ra rb rc s
  | .scCheckLtL ra => Sys2Proof.Machine.execScCheckLtL ra s
  | .geIdent rd => Sys2Proof.Machine.execGeIdent rd s
  | .geP3ToCached rd ra => Sys2Proof.Machine.execGeP3ToCached rd ra s
  | .geP3ToP2 rd ra => Sys2Proof.Machine.execGeP3ToP2 rd ra s
  | .geP1p1ToP2 rd ra => Sys2Proof.Machine.execGeP1p1ToP2 rd ra s
  | .geP1p1ToP3 rd ra => Sys2Proof.Machine.execGeP1p1ToP3 rd ra s
  | .geAdd rd ra rb => Sys2Proof.Machine.execGeAdd rd ra rb s
  | .geSub rd ra rb => Sys2Proof.Machine.execGeSub rd ra rb s
  | .geMadd rd ra rb => Sys2Proof.Machine.execGeMadd rd ra rb s
  | .geMsub rd ra rb => Sys2Proof.Machine.execGeMsub rd ra rb s
  | .geP2Dbl rd ra => Sys2Proof.Machine.execGeP2Dbl rd ra s
  | .geP3Dbl rd ra => Sys2Proof.Machine.execGeP3Dbl rd ra s
  | .geEncode rd ra => Sys2Proof.Machine.execGeEncode rd ra s
  | .geDecode rd ra => Sys2Proof.Machine.execGeDecode rd ra s
  | .geDecodeNeg rd ra => Sys2Proof.Machine.execGeDecodeNeg rd ra s
  | .geSelect rd => Sys2Proof.Machine.execGeSelect rd s
  | .geLoadBi rd => Sys2Proof.Machine.execGeLoadBi rd s
  | .geScalarmultBase rd ra => Sys2Proof.Machine.execGeScalarmultBase rd ra s
  | .geDoubleScalarmultVt rd ra rb rc => Sys2Proof.Machine.execGeDoubleScalarmultVt rd ra rb rc s
  | .x25519 rd ra rb => Sys2Proof.Machine.execX25519 rd ra rb s
  | .x25519Base rd ra => Sys2Proof.Machine.execX25519Base rd ra s
  | .edFromSeed rd ra rb => Sys2Proof.Machine.execEdFromSeed rd ra rb s
  | .edFrom rd ra rb => Sys2Proof.Machine.execEdFrom rd ra rb s
  | .edGenerate rd ra => Sys2Proof.Machine.execEdGenerate rd ra s
  | .edSign rd ra rb => Sys2Proof.Machine.execEdSign rd ra rb s
  | .edVerify ra rb => Sys2Proof.Machine.execEdVerify ra rb s

end Sys2Proof.Machine
end

