-- ==== Sys2Proof/Machine/Bus.lean ====
section
/-! DEFINITION. The host bus (20_memory.md): the register map of R61, the refused accesses of R65 to R68,
the issue of a command by a `CMD` write (R295) and the soft reset by a `CTRL` write (R311).
-/
namespace Sys2Proof.Machine

/-- A read answers `v` (R70). -/
def respond (s : State) (v : Word) : State := { s with rdata := some v }

/-- A refused access sets `STATUS.ACCV` (R65 to R68). -/
def setAccv (s : State) : State := { s with accv := true }

/-- A refused read returns 0 and sets ACCV (R65). -/
def refuseRead (s : State) : State := setAccv (respond s 0#32)

/-- The B register that offset `o` of the BREG window lies in: `o = 0x0200 + 32·k + i` (R63). -/
def bregIndex (o : Nat) : Reg := BitVec.ofNat 4 ((o - 0x200) / 32)

/-- The word of that register: the m of `0x0200 + 32·k + 4·m` (R63). -/
def bregWord (o : Nat) : Nat := (o - 0x200) % 32 / 4

/-- Offset `o` lies in the BREG window (R61). -/
def inBreg (o : Nat) : Bool := decide (0x200 ≤ o) && decide (o < 0x400)

/-- Offset `o` lies in the MSG window (R61). -/
def inMsg (o : Nat) : Bool := decide (0x1000 ≤ o) && decide (o < Config.windowBytes)

/-- An aligned 32-bit read (R61 to R64, R66 to R68). -/
def readWord32 (o : Nat) (s : State) : State :=
  if o = 0x0000 then respond s Config.idValue
  else if o = 0x0004 then respond s 0#32
  else if o = 0x0008 then respond s s.arg
  else if o = 0x000C then respond s (statusWord s)
  else if o = 0x0010 then respond s s.errcode
  else if o = 0x0014 then respond s (ctrlWord s)
  else if o = 0x0018 then respond s s.msglen
  else if inBreg o then
    if s.busy then refuseRead s else respond s (wordAt (readB s (bregIndex o)) (bregWord o))
  else if inMsg o then
    if s.busy then refuseRead s else respond s (memReadWord s.msg (o - 0x1000))
  else refuseRead s

/-- A write to `CMD` (R68, R295): accepted exactly when BUSY = 0 and ERR = 0, else only ACCV is set. -/
def writeCmd (s : State) (v : Word) : State := if s.busy || s.err then setAccv s else issue s v

/-- A write to `CTRL` (R35, R311): with SRST = 1 a soft reset, the other bits ignored; else IE ← bit 0. -/
def writeCtrl (s : State) (v : Word) : State := if v.getLsbD 1 then resetEngine s else { s with ie := v.getLsbD 0 }

/-- A write to the BREG window replaces one word of one register (R63). -/
def writeBreg (o : Nat) (s : State) (v : Word) : State :=
  writeB s (bregIndex o) (setWord (readB s (bregIndex o)) (bregWord o) v)

/-- An aligned 32-bit write (R61 to R64, R66 to R68). -/
def writeWord32 (o : Nat) (s : State) (v : Word) : State :=
  if o = 0x0004 then writeCmd s v
  else if o = 0x0008 then if s.busy then setAccv s else { s with arg := v }
  else if o = 0x000C then writeStatus s v
  else if o = 0x0014 then writeCtrl s v
  else if o = 0x0018 then if s.busy then setAccv s else { s with msglen := v }
  else if inBreg o then if s.busy then setAccv s else writeBreg o s v
  else if inMsg o then if s.busy then setAccv s else { s with msg := memWriteWord s.msg (o - 0x1000) v }
  else setAccv s

/-- The bus accepts only naturally aligned 32-bit accesses (R65). -/
def accessOk (o : Nat) (w : AccessWidth) : Bool := decide (w = .w32) && decide (o % 4 = 0)

/-- One host access (R61, R65, R67): above the window the fault, a narrow, wide or misaligned access refused
with ACCV, else the word access. -/
def hostStep (a : HostAccess) (s : State) : Outcome :=
  match a with
  | .read o w =>
    if o < Config.windowBytes then .next (if accessOk o w then readWord32 o s else refuseRead s)
    else .fault .offsetOutsideWindow
  | .write o w v =>
    if o < Config.windowBytes then .next (if accessOk o w then writeWord32 o s v else setAccv s)
    else .fault .offsetOutsideWindow

end Sys2Proof.Machine
end

