-- ==== Sys2Proof/Machine/Fetch.lean ====
section
/-! DEFINITION. Where the engine takes its command from, and the schedule. The engine has no program
counter and fetches nothing (R33): the command word stands in `PEND` from its issue to its completion (R39).
-/
namespace Sys2Proof.Machine

/-- What the engine's turn has to complete. -/
inductive Fetched where
  /-- BUSY = 0: the engine has no enabled step (R296). -/
  | nothing
  /-- The word in `PEND` is no command (R97). -/
  | illegalWord
  /-- The command in `PEND`. -/
  | command (i : Instr)
  deriving DecidableEq, Repr

/-- The command word in `PEND`, decoded (R95, R296). -/
def fetch (s : State) : Fetched :=
  match s.pend with
  | none => .nothing
  | some w =>
    match decode w with
    | .error _ => .illegalWord
    | .ok i => .command i

/-- The event that happens next and the schedule after it. When the schedule holds nothing more the engine
has the turn, so that every issued command completes (R296, log entry 1). -/
def nextEvent (s : State) : Event × State :=
  match s.agenda with
  | [] => (.engine, s)
  | e :: rest => (e, { s with agenda := rest })

/-- The state with `w` issued and the engine's turn next: what the host's accepted `CMD` write leaves, without
the condition of R295 on BUSY and ERR (log entry 6). -/
def placeCommand (s : State) (w : Word) : State := { s with pend := some w, agenda := .engine :: s.agenda }

end Sys2Proof.Machine
end

