-- ==== Sys2Proof/Machine/Engine.lean ====
section
/-! DEFINITION. The engine's one kind of step (R296): complete the pending command.
-/
namespace Sys2Proof.Machine

/-- The engine's turn (R296): the pending command's completion, `ERR_ILLEGAL` for a word that is none (R97),
nothing when no command is pending. -/
def engineStep (s : State) : Outcome :=
  match fetch s with
  | .nothing => .next s
  | .illegalWord => .next (takeError s .illegal)
  | .command i => exec i s

end Sys2Proof.Machine
end

