-- ==== Sys2Proof/Machine/Step.lean ====
section
/-! DEFINITION. One step of the machine (R18): one host access, the engine's completion step, or the
platform's hard reset, as the schedule says.
-/
namespace Sys2Proof.Machine

/-- One step: the schedule's next event (R18, R74). -/
def step (s : State) : Host.Outcome State Fault Refusal :=
  match nextEvent s with
  | (.engine, s') => engineStep s'
  | (.hardReset, s') => .next (resetEngine s')
  | (.host a, s') => hostStep a s'

/-- `s` with the low `nbits` bits of `w` as the pending command word and the engine's turn next, so that the
next step completes exactly that command (log entry 6). -/
def State.withFetchWord (s : State) (nbits w : Nat) : State := placeCommand s (BitVec.ofNat 32 (w % 2 ^ nbits))

end Sys2Proof.Machine
end

