-- ==== Sys2Proof/Machine/Chain.lean ====
section
/-! DEFINITION. The reference exponentiation chains of R150 and R151, over any multiplication. Only the results
are architectural (R141, R142); the chains serve the limb datapath and the statements that they compute the
same powers.
-/
namespace Sys2Proof.Machine

/-- `sq(a, n)`: n successive squarings (R150). -/
def sqTimes {α : Type} (mul : α → α → α) : Nat → α → α
  | 0, a => a
  | n + 1, a => sqTimes mul n (mul a a)

/-- The part the two chains share: `z11` and `z_250_0` = z^(2^250 − 1) (R150). -/
def chain250 {α : Type} (mul : α → α → α) (z : α) : α × α :=
  let z2 := sqTimes mul 1 z
  let z8 := sqTimes mul 2 z2
  let z9 := mul z z8
  let z11 := mul z2 z9
  let z22 := sqTimes mul 1 z11
  let z5 := mul z9 z22
  let z10 := mul (sqTimes mul 5 z5) z5
  let z20 := mul (sqTimes mul 10 z10) z10
  let z40 := mul (sqTimes mul 20 z20) z20
  let z50 := mul (sqTimes mul 10 z40) z10
  let z100 := mul (sqTimes mul 50 z50) z50
  let z200 := mul (sqTimes mul 100 z100) z100
  let z250 := mul (sqTimes mul 50 z200) z50
  (z11, z250)

/-- The chain of `FE_INVERT`: z^(2^255 − 21) (R150). -/
def invertChain {α : Type} (mul : α → α → α) (z : α) : α :=
  let c := chain250 mul z
  mul (sqTimes mul 5 c.2) c.1

/-- The chain of `FE_POW2523`: z^(2^252 − 3) (R151). -/
def pow2523Chain {α : Type} (mul : α → α → α) (z : α) : α :=
  let c := chain250 mul z
  mul (sqTimes mul 2 c.2) z

end Sys2Proof.Machine
end

