-- ==== Sys2Proof/Machine/Limbs.lean ====
section
/-! DEFINITION. The limb-level datapath of the field unit (42_field_limbs.md), which refines the field values
of 41_field.md (R160). A limb pattern is hidden state that no rule exposes (R25, R40), so State holds field
values and these functions are the reference the refinement statements speak of (log entry 9). Limbs and
accumulators are exact integers, as on a datapath that never overflows; the bounds by which they fit their 32 and
64 bits (R161, R162, R172) are stated of the values formed along the way: `mulPartial`, `carryValues`.
-/
namespace Sys2Proof.Machine

/-- Ten signed limbs h[0..9] (R161). -/
structure Limbs where
  h0 : Int
  h1 : Int
  h2 : Int
  h3 : Int
  h4 : Int
  h5 : Int
  h6 : Int
  h7 : Int
  h8 : Int
  h9 : Int
  deriving DecidableEq, Repr

/-- h[i]; 0 for an index above 9, which no rule uses (R161). -/
def limbAt (h : Limbs) : Nat → Int
  | 0 => h.h0
  | 1 => h.h1
  | 2 => h.h2
  | 3 => h.h3
  | 4 => h.h4
  | 5 => h.h5
  | 6 => h.h6
  | 7 => h.h7
  | 8 => h.h8
  | 9 => h.h9
  | _ => 0

/-- h[i] <- v (R161). -/
def setLimb (h : Limbs) (i : Nat) (v : Int) : Limbs :=
  match i with
  | 0 => { h with h0 := v }
  | 1 => { h with h1 := v }
  | 2 => { h with h2 := v }
  | 3 => { h with h3 := v }
  | 4 => { h with h4 := v }
  | 5 => { h with h5 := v }
  | 6 => { h with h6 := v }
  | 7 => { h with h7 := v }
  | 8 => { h with h8 := v }
  | 9 => { h with h9 := v }
  | _ => h

/-- The pattern whose limb i is `v i`. -/
def limbsOf (v : Nat → Int) : Limbs := ⟨v 0, v 1, v 2, v 3, v 4, v 5, v 6, v 7, v 8, v 9⟩

/-- The width b[i]: 26 for even i, 25 for odd i (R161). -/
def limbWidth (i : Nat) : Nat := if i % 2 = 0 then 26 else 25

/-- The exponent w[i] of the weight: ceil(25.5 · i) (R161). -/
def limbShift (i : Nat) : Nat := (51 * i + 1) / 2

/-- The integer Σ h[i] · 2^w[i] of a pattern (R160, R165). -/
def limbsInt (h : Limbs) : Int :=
  h.h0 + h.h1 * 2 ^ 26 + h.h2 * 2 ^ 51 + h.h3 * 2 ^ 77 + h.h4 * 2 ^ 102 + h.h5 * 2 ^ 128 + h.h6 * 2 ^ 153 +
    h.h7 * 2 ^ 179 + h.h8 * 2 ^ 204 + h.h9 * 2 ^ 230

/-- `val(h)`: that integer mod p (R160). -/
def limbsVal (h : Limbs) : Fe := feOfNat (limbsInt h % (prime25519 : Int)).toNat

/-- The tight bound: |h[i]| ≤ 1.01 · 2^25 for even i, ≤ 1.01 · 2^24 for odd i (R162). -/
def limbBound (i : Nat) : Int := if i % 2 = 0 then 33889976 else 16944988

/-- Every limb is within the tight bound (R162). -/
def tight (h : Limbs) : Prop := ∀ i, i < 10 → |limbAt h i| ≤ limbBound i

/-- `v` is in the range of a signed 64-bit accumulator (R162, R163). -/
def fits64 (v : Int) : Prop := -2 ^ 63 ≤ v ∧ v < 2 ^ 63

/-- |v| < 2^(n/100), the form of R172's bounds: `belowPow2 v 5003` is |v| < 2^50.03. -/
def belowPow2 (v : Int) (n : Nat) : Prop := |v| ^ 100 < 2 ^ n

/-- `step(i)` of the carry chain (R163); the arithmetic shift is division rounding toward −∞ (R10). -/
def carryStep (i : Nat) (h : Limbs) : Limbs :=
  let c := (limbAt h i + 2 ^ (limbWidth i - 1)) / 2 ^ limbWidth i
  let h := if i < 9 then setLimb h (i + 1) (limbAt h (i + 1) + c) else setLimb h 0 (limbAt h 0 + 19 * c)
  setLimb h i (limbAt h i - c * 2 ^ limbWidth i)

/-- The order of the twelve steps (R163). -/
def carryOrder : List Nat := [0, 4, 1, 5, 2, 6, 3, 7, 4, 8, 9, 0]

/-- The carry chain: the twelve steps in that order (R163). -/
def carryChain (h : Limbs) : Limbs := carryOrder.foldl (fun h i => carryStep i h) h

/-- What `step(i)` computes, in its order: the rounded sum, c, what is added to the next limb and the sum, the
shifted carry and the remainder (R163). -/
def carryStepValues (i : Nat) (h : Limbs) : List Int :=
  let r := limbAt h i + 2 ^ (limbWidth i - 1)
  let c := r / 2 ^ limbWidth i
  let inc := if i < 9 then c else 19 * c
  [r, c, inc, limbAt h (if i < 9 then i + 1 else 0) + inc, c * 2 ^ limbWidth i, limbAt h i - c * 2 ^ limbWidth i]

/-- Every value of the steps in a list: what each computes and the ten limbs that go into it and come out
(R163). -/
def carryValues : List Nat → Limbs → List Int
  | [], h => (List.range 10).map (limbAt h)
  | i :: rest, h => (List.range 10).map (limbAt h) ++ carryStepValues i h ++ carryValues rest (carryStep i h)

/-- `zero` and `one` on limbs (R171). -/
def limbsZero : Limbs := ⟨0, 0, 0, 0, 0, 0, 0, 0, 0, 0⟩

def limbsOne : Limbs := ⟨1, 0, 0, 0, 0, 0, 0, 0, 0, 0⟩

/-- The limbs that `from_bytes` cuts a string into (R164). -/
def limbsCut (s : Bytes32) : Limbs :=
  limbsOf fun i => ((s.toNat % 2 ^ 255 / 2 ^ limbShift i % 2 ^ limbWidth i : Nat) : Int)

/-- `from_bytes` on limbs (R164). -/
def limbsFromBytes (s : Bytes32) : Limbs := carryChain (limbsCut s)

/-- The quotient q of the full reduction: the first two lines of R165. -/
def limbsQuotient (h : Limbs) : Int :=
  (List.range 10).foldl (fun q i => (limbAt h i + q) / 2 ^ limbWidth i) ((19 * h.h9 + 2 ^ 24) / 2 ^ 25)

/-- One step of R165's second loop: the floor carry out of limb i, dropped out of limb 9. -/
def floorCarryStep (h : Limbs) (i : Nat) : Limbs :=
  let c := limbAt h i / 2 ^ limbWidth i
  let h := if i < 9 then setLimb h (i + 1) (limbAt h (i + 1) + c) else h
  setLimb h i (limbAt h i - c * 2 ^ limbWidth i)

/-- The fully reduced pattern of R165, each limb in [0, 2^b[i]). -/
def limbsReduced (h : Limbs) : Limbs :=
  (List.range 10).foldl floorCarryStep (setLimb h 0 (h.h0 + 19 * limbsQuotient h))

/-- `to_bytes` on limbs (R165). -/
def limbsToBytes (h : Limbs) : Bytes32 := BitVec.ofInt 256 (limbsInt (limbsReduced h))

/-- `add`, `sub`, `negate` on limbs (R166). -/
def limbsAdd (f g : Limbs) : Limbs := carryChain (limbsOf fun i => limbAt f i + limbAt g i)

def limbsSub (f g : Limbs) : Limbs := carryChain (limbsOf fun i => limbAt f i - limbAt g i)

def limbsNegate (f : Limbs) : Limbs := limbsOf fun i => -limbAt f i

/-- The term of R167 for limbs i and j: doubled when both are odd, times 19 when the weight wraps. -/
def mulTerm (f g : Limbs) (i j : Nat) : Int :=
  let t := limbAt f i * limbAt g j
  let t := if i % 2 = 1 ∧ j % 2 = 1 then 2 * t else t
  if i + j ≥ 10 then 19 * t else t

/-- `acc[k]` of R167 after the rounds i < m: each round adds the one term with (i + j) mod 10 = k. -/
def mulPartial (f g : Limbs) (k m : Nat) : Int :=
  ((List.range m).map fun i => mulTerm f g i ((k + 10 - i) % 10)).sum

/-- The accumulator `acc[k]` of R167. -/
def mulAcc (f g : Limbs) (k : Nat) : Int := mulPartial f g k 10

/-- `mul` on limbs (R167). -/
def limbsMul (f g : Limbs) : Limbs := carryChain (limbsOf (mulAcc f g))

/-- `square` on limbs (R168). -/
def limbsSquare (f : Limbs) : Limbs := limbsMul f f

/-- `square_and_double` on limbs: each accumulator doubled before the carry (R168). -/
def limbsSquareDouble (f : Limbs) : Limbs := carryChain (limbsOf fun k => 2 * mulAcc f f k)

/-- `mul_small` on limbs, `k` an unsigned 32-bit constant (R169). -/
def limbsMulSmall (f : Limbs) (k : Nat) : Limbs := carryChain (limbsOf fun i => limbAt f i * k)

/-- The mask of R170: all ones for bit 1, all zeros for bit 0. -/
def swapMask (bit : Bool) : Word := if bit then BitVec.allOnes 32 else 0#32

/-- `x = (f[i] XOR g[i]) AND mask` on one limb in 32-bit two's complement (R170). -/
def swapDiff (bit : Bool) (f g : Int) : Word := (BitVec.ofInt 32 f ^^^ BitVec.ofInt 32 g) &&& swapMask bit

/-- `conditional_swap` on limbs: both patterns XORed with the masked difference, no comparison (R170). -/
def limbsCswap (bit : Bool) (f g : Limbs) : Limbs × Limbs :=
  (limbsOf fun i => (BitVec.ofInt 32 (limbAt f i) ^^^ swapDiff bit (limbAt f i) (limbAt g i)).toInt,
   limbsOf fun i => (BitVec.ofInt 32 (limbAt g i) ^^^ swapDiff bit (limbAt f i) (limbAt g i)).toInt)

/-- `invert` and `pow_p_minus_5_over_8` on limbs by the chains of R150 and R151. -/
def limbsInvert (f : Limbs) : Limbs := invertChain limbsMul f

def limbsPow2523 (f : Limbs) : Limbs := pow2523Chain limbsMul f

end Sys2Proof.Machine
end

