-- ==== Sys2Proof/Machine/Timing.lean ====
section
/-! DEFINITION. The time classes of R320. The model has no time: the classes change no result (R321), and no
step mentions a latency (R322; log entry 13). The contract R321 states of an observation is `leakContract` in
Safety.lean, beside the checks it speaks of.
-/
namespace Sys2Proof.Machine

/-- The two classes of R320. -/
inductive TimeClass where
  /-- CT: latency and table addresses are functions of the command word and `MSGLEN` only. -/
  | constantTime
  /-- VT: latency and access pattern may depend on operand values. -/
  | variableTime
  deriving DecidableEq, Repr

/-- The class of every command (R320's table). -/
def Instr.timeClass : Instr → TimeClass
  | .nop => .constantTime
  | .wipeAll => .constantTime
  | .feWipe _ => .constantTime
  | .geWipe _ => .constantTime
  | .bWipe _ => .constantTime
  | .feZero _ => .constantTime
  | .feOne _ => .constantTime
  | .feFromBytes _ _ => .constantTime
  | .feToBytes _ _ => .constantTime
  | .feAdd _ _ _ => .constantTime
  | .feSub _ _ _ => .constantTime
  | .feMul _ _ _ => .constantTime
  | .feSq _ _ => .constantTime
  | .feSq2 _ _ => .constantTime
  | .feMulSmall _ _ => .constantTime
  | .feInvert _ _ => .constantTime
  | .fePow2523 _ _ => .constantTime
  | .feIsNeg _ => .constantTime
  | .feIsNz _ => .constantTime
  | .feNeg _ _ => .constantTime
  | .feCswap _ _ => .constantTime
  | .scReduce _ => .constantTime
  | .scMuladd _ _ _ _ => .constantTime
  | .scCheckLtL _ => .constantTime
  | .geIdent _ => .constantTime
  | .geP3ToCached _ _ => .constantTime
  | .geP3ToP2 _ _ => .constantTime
  | .geP1p1ToP2 _ _ => .constantTime
  | .geP1p1ToP3 _ _ => .constantTime
  | .geAdd _ _ _ => .constantTime
  | .geSub _ _ _ => .constantTime
  | .geMadd _ _ _ => .constantTime
  | .geMsub _ _ _ => .constantTime
  | .geP2Dbl _ _ => .constantTime
  | .geP3Dbl _ _ => .constantTime
  | .geEncode _ _ => .constantTime
  | .geDecode _ _ => .variableTime
  | .geDecodeNeg _ _ => .variableTime
  | .geSelect _ => .constantTime
  | .geLoadBi _ => .variableTime
  | .geScalarmultBase _ _ => .constantTime
  | .geDoubleScalarmultVt _ _ _ _ => .variableTime
  | .x25519 _ _ _ => .constantTime
  | .x25519Base _ _ => .constantTime
  | .edFromSeed _ _ _ => .constantTime
  | .edFrom _ _ _ => .constantTime
  | .edGenerate _ _ => .constantTime
  | .edSign _ _ _ => .constantTime
  | .edVerify _ _ => .variableTime

end Sys2Proof.Machine
end

