-- ==== Sys2Proof/Safety.lean ====
section
/-! DEFINITION. What the claims speak of: the invariants that every step keeps, what a point register's content
stands for (R190 to R194, R211), which words are commands (R91, R92), which registers a command writes and
which checks it makes (R43, R96, R99), the state after reset (R42), and what the host can see (R40).
-/
namespace Sys2Proof.Machine

/-! ## Invariants of the control and status registers -/

/-- ERR and `ERRCODE` agree: with ERR = 0 the code is 0, with ERR = 1 it is one of 1 to 5 (R282). -/
def errConsistent (s : State) : Prop :=
  if s.err then 1 ≤ s.errcode.toNat ∧ s.errcode.toNat ≤ 5 else s.errcode = 0#32

/-- While a command is pending ERR and DONE are 0: no command is accepted while ERR = 1, and issue clears DONE
(R295, R296). -/
def busyExclusive (s : State) : Prop := s.busy = true → s.err = false ∧ s.done = false

/-- The message RAM is in canonical form and lies in its 4096 bytes (R37, log entry 8). -/
def memCanonical (s : State) : Prop := Memory.wf s.msg = true ∧ memInRam s.msg = true

/-- The three together: the control invariant of the engine. -/
def controlInv (s : State) : Prop := errConsistent s ∧ busyExclusive s ∧ memCanonical s

/-! ## Valid points (R190 to R195, R211)

The curve equation of R195 after the projection a format's rule gives, with the denominators multiplied out,
and the denominators not zero. -/

/-- P2: (X/Z, Y/Z) is on the curve, Z ≠ 0 (R190). -/
def p2Valid (v : P2) : Prop :=
  v.z ≠ 0 ∧
    (v.y * v.y - v.x * v.x) * (v.z * v.z) = v.z * v.z * (v.z * v.z) + constD * (v.x * v.x) * (v.y * v.y)

/-- P3: Z ≠ 0, T·Z = X·Y, and Y² − X² = Z² + d·T², which is the curve equation for T = X·Y/Z (R191). -/
def p3Valid (v : P3) : Prop :=
  v.z ≠ 0 ∧ v.t * v.z = v.x * v.y ∧ v.y * v.y - v.x * v.x = v.z * v.z + constD * (v.t * v.t)

/-- P1P1: (X/Z, Y/T) is on the curve, Z ≠ 0 and T ≠ 0 (R192). -/
def p1p1Valid (v : P1P1) : Prop :=
  v.z ≠ 0 ∧ v.t ≠ 0 ∧
    v.y * v.y * (v.z * v.z) - v.x * v.x * (v.t * v.t) =
      v.z * v.z * (v.t * v.t) + constD * (v.x * v.x) * (v.y * v.y)

/-- Cached: the form R193 gives of a valid P3 point. -/
def cachedValid (c : Cached) : Prop := ∃ v : P3, p3Valid v ∧ c = p3ToCached v

/-- Precomp: the form R194 gives of an affine point of the curve. -/
def precompValid (c : Precomp) : Prop := ∃ q : Affine, onCurve q ∧ c = precompOf q

/-- A point register's content is a valid point in the sense of its format (R211). -/
def pointValid : Point → Prop
  | .p2 v => p2Valid v
  | .p3 v => p3Valid v
  | .p1p1 v => p1p1Valid v
  | .cached v => cachedValid v
  | .precomp v => precompValid v

/-- Every point register is Empty or holds a valid point (R211). -/
def pointsInv (s : State) : Prop := ∀ (r : Reg) (pt : Point), readG s r = some pt → pointValid pt

/-! ## What the formats stand for, without division (R190 to R195) -/

/-- `v` stands for the affine point `q`: X = x·Z, Y = y·Z, T = x·y·Z (R191). -/
def p3Stands (v : P3) (q : Affine) : Prop := v.x = q.x * v.z ∧ v.y = q.y * v.z ∧ v.t = q.x * q.y * v.z

/-- `v` stands for `q`: X = x·Z, Y = y·Z (R190). -/
def p2Stands (v : P2) (q : Affine) : Prop := v.x = q.x * v.z ∧ v.y = q.y * v.z

/-- `v` stands for `q`: X = x·Z, Y = y·T (R192). -/
def p1p1Stands (v : P1P1) (q : Affine) : Prop := v.x = q.x * v.z ∧ v.y = q.y * v.t

/-- `c` stands for `q`: Y+X = (y+x)·Z, Y−X = (y−x)·Z, T2d = 2·d·x·y·Z (R193). -/
def cachedStands (c : Cached) (q : Affine) : Prop :=
  c.yPlusX = (q.y + q.x) * c.z ∧ c.yMinusX = (q.y - q.x) * c.z ∧ c.t2d = constD2 * (q.x * q.y) * c.z

/-- `c` is the sum of `a` and `b` by the law of R195, each denominator multiplied out. -/
def affineSum (a b c : Affine) : Prop :=
  c.x * (1 + constD * a.x * b.x * a.y * b.y) = a.x * b.y + b.x * a.y ∧
    c.y * (1 - constD * a.x * b.x * a.y * b.y) = a.y * b.y + a.x * b.x

/-- The negative of an affine point (R195). -/
def affineNeg (q : Affine) : Affine := ⟨-q.x, q.y⟩

/-! The same with the denominators R190 to R193 ask for: what the content of a register stands for. -/

/-- `v` represents `q`, Z ≠ 0 (R191). -/
def p3Represents (v : P3) (q : Affine) : Prop := v.z ≠ 0 ∧ p3Stands v q

/-- `v` represents `q`, Z ≠ 0 (R190). -/
def p2Represents (v : P2) (q : Affine) : Prop := v.z ≠ 0 ∧ p2Stands v q

/-- `v` represents `q`, Z ≠ 0 and T ≠ 0 (R192). -/
def p1p1Represents (v : P1P1) (q : Affine) : Prop := v.z ≠ 0 ∧ v.t ≠ 0 ∧ p1p1Stands v q

/-- `c` represents `q`, Z ≠ 0 (R193). -/
def cachedRepresents (c : Cached) (q : Affine) : Prop := c.z ≠ 0 ∧ cachedStands c q

/-! ## Multiples of a point (R226 to R229) -/

/-- n·P for an integer n: for a negative n the multiple of −P (R195). -/
def affineMulInt (q : Affine) : Int → Affine
  | .ofNat n => affineMul q n
  | .negSucc n => affineMul (affineNeg q) (n + 1)

/-- Σ e[i]·b^i over i < n. -/
def digitSum (b : Int) (n : Nat) (e : List Int) : Int := ((List.range n).map fun i => e.getD i 0 * b ^ i).sum

/-- The multiple of B that `GE_SCALARMULT_BASE` computes: a last digit above 8 is dropped (R227). -/
def baseMultiple (a : Bytes32) : Int :=
  digitSum 16 63 (recode16 a) + (if (recode16 a).getD 63 0 ≤ 8 then (recode16 a).getD 63 0 else 0) * 16 ^ 63

/-- Σ r[i]·2^i over the digits of `slide`: a' and b' of R229. -/
def slideSum (a : Bytes32) : Int := digitSum 2 256 (slide a)

/-! ## The Montgomery ladder (R241) -/

/-- Bit `j` of the clamped scalar, by R17's words: bits 0, 1, 2 and 255 are clear, bit 254 is set. -/
def clampedBit (n : Bytes32) (j : Nat) : Bool := decide (j = 254) || (decide (3 ≤ j) && decide (j < 254) && n.getLsbD j)

/-- The four values that an iteration hands to the next. -/
structure LadderPairs where
  x2 : Fe
  z2 : Fe
  x3 : Fe
  z3 : Fe
  deriving DecidableEq, Repr

/-- The pairs (x2, z2) and (x3, z3), exchanged when `swap` is 1 (R241). -/
def LadderPairs.swapped (swap : Bool) (v : LadderPairs) : LadderPairs :=
  if swap then ⟨v.x3, v.z3, v.x2, v.z2⟩ else v

/-- `w` is what the formulas of R241 give of `v`, the values after the swap: A = x2 + z2, B = x2 − z2,
C = x3 + z3, Dm = x3 − z3, DA = Dm·A, CB = C·B, AA = A², BB = B², E = AA − BB. -/
def ladderFormulas (x1 : Fe) (v w : LadderPairs) : Prop :=
  ∃ a b c dm da cb aa bb e : Fe,
    a = v.x2 + v.z2 ∧ b = v.x2 - v.z2 ∧ c = v.x3 + v.z3 ∧ dm = v.x3 - v.z3 ∧ da = dm * a ∧ cb = c * b ∧
      aa = a * a ∧ bb = b * b ∧ e = aa - bb ∧ w.x3 = (da + cb) * (da + cb) ∧
        w.z3 = x1 * ((da - cb) * (da - cb)) ∧ w.x2 = aa * bb ∧ w.z2 = e * (bb + feOfNat 121666 * e)

/-- R241's run for the scalar `n` and the u-coordinate `x1`: `v k` are the values after k of the 255 iterations,
the k-th for the position 254 − k, its swap bit that position's bit XOR the one before it (bit 255 is 0, as is
swap at the start). -/
def ladderRun (n : Bytes32) (x1 : Fe) (v : Nat → LadderPairs) : Prop :=
  v 0 = ⟨1, 0, x1, 1⟩ ∧
    ∀ k, k < 255 →
      ladderFormulas x1 ((v k).swapped (clampedBit n (255 - k) ^^ clampedBit n (254 - k))) (v (k + 1))

/-! ## Which words are commands (R91, R92, R96) -/

/-- The kinds of a register field (R91). -/
inductive FieldKind where
  | unused
  | f
  | g
  | b
  | w
  deriving DecidableEq, Repr

/-- A row of R96: the opcode and the kinds of `rd`, `ra`, `rb`, `rc`. -/
structure CommandRow where
  opcode : Nat
  rd : FieldKind
  ra : FieldKind
  rb : FieldKind
  rc : FieldKind
  deriving DecidableEq, Repr

/-- The 49 rows of R96, the system, field and scalar families. -/
def commandRowsLow : List CommandRow :=
  [⟨0x00, .unused, .unused, .unused, .unused⟩, ⟨0x01, .unused, .unused, .unused, .unused⟩,
   ⟨0x02, .f, .unused, .unused, .unused⟩, ⟨0x03, .g, .unused, .unused, .unused⟩,
   ⟨0x04, .b, .unused, .unused, .unused⟩, ⟨0x10, .f, .unused, .unused, .unused⟩,
   ⟨0x11, .f, .unused, .unused, .unused⟩, ⟨0x12, .f, .b, .unused, .unused⟩,
   ⟨0x13, .b, .f, .unused, .unused⟩, ⟨0x14, .f, .f, .f, .unused⟩, ⟨0x15, .f, .f, .f, .unused⟩,
   ⟨0x16, .f, .f, .f, .unused⟩, ⟨0x17, .f, .f, .unused, .unused⟩, ⟨0x18, .f, .f, .unused, .unused⟩,
   ⟨0x19, .f, .f, .unused, .unused⟩, ⟨0x1A, .f, .f, .unused, .unused⟩, ⟨0x1B, .f, .f, .unused, .unused⟩,
   ⟨0x1C, .unused, .f, .unused, .unused⟩, ⟨0x1D, .unused, .f, .unused, .unused⟩,
   ⟨0x1E, .f, .f, .unused, .unused⟩, ⟨0x1F, .unused, .f, .f, .unused⟩,
   ⟨0x20, .w, .unused, .unused, .unused⟩, ⟨0x21, .b, .b, .b, .b⟩, ⟨0x22, .unused, .b, .unused, .unused⟩]

/-- The rows of the group, table, X25519 and Ed25519 families. -/
def commandRowsHigh : List CommandRow :=
  [⟨0x30, .g, .unused, .unused, .unused⟩, ⟨0x31, .g, .g, .unused, .unused⟩, ⟨0x32, .g, .g, .unused, .unused⟩,
   ⟨0x33, .g, .g, .unused, .unused⟩, ⟨0x34, .g, .g, .unused, .unused⟩, ⟨0x35, .g, .g, .g, .unused⟩,
   ⟨0x36, .g, .g, .g, .unused⟩, ⟨0x37, .g, .g, .g, .unused⟩, ⟨0x38, .g, .g, .g, .unused⟩,
   ⟨0x39, .g, .g, .unused, .unused⟩, ⟨0x3A, .g, .g, .unused, .unused⟩, ⟨0x3B, .b, .g, .unused, .unused⟩,
   ⟨0x3C, .g, .b, .unused, .unused⟩, ⟨0x3D, .g, .b, .unused, .unused⟩, ⟨0x40, .g, .unused, .unused, .unused⟩,
   ⟨0x41, .g, .unused, .unused, .unused⟩, ⟨0x42, .g, .b, .unused, .unused⟩, ⟨0x43, .g, .b, .g, .b⟩,
   ⟨0x50, .b, .b, .b, .unused⟩, ⟨0x51, .b, .b, .unused, .unused⟩, ⟨0x60, .w, .b, .b, .unused⟩,
   ⟨0x61, .w, .b, .w, .unused⟩, ⟨0x62, .w, .b, .unused, .unused⟩, ⟨0x63, .w, .w, .b, .unused⟩,
   ⟨0x64, .unused, .b, .w, .unused⟩]

/-- The legal values of a field of a kind (R91). -/
def fieldLegal : FieldKind → Nat → Prop
  | .unused, v => v = 0
  | .f, _ => True
  | .b, _ => True
  | .g, v => v < 8
  | .w, v => v < 8

/-- A command word is legal by (a) to (d) of R92, read off the table of kinds and not off masks. -/
def wordLegal (w : Word) : Prop :=
  ∃ row ∈ commandRowsLow ++ commandRowsHigh,
    w.toNat % 256 = row.opcode ∧ w.toNat / 2 ^ 24 = 0 ∧ fieldLegal row.rd (w.toNat / 2 ^ 8 % 16) ∧
      fieldLegal row.ra (w.toNat / 2 ^ 12 % 16) ∧ fieldLegal row.rb (w.toNat / 2 ^ 16 % 16) ∧
        fieldLegal row.rc (w.toNat / 2 ^ 20 % 16)

/-! ## What a command writes (R28, R43, R96) -/

/-- The registers a command may write: F, G, B registers and the flag. -/
structure WriteSet where
  f : List Reg
  g : List Reg
  b : List Reg
  t : Bool
  deriving DecidableEq, Repr

/-- The sixteen values of a register field. -/
def allRegs : List Reg := (List.range 16).map (BitVec.ofNat 4)

/-- The destinations of every command (R43 and the rule of each command); a W destination is its two B
registers (R22), of which `SC_REDUCE` writes the lower only (R181). -/
def writesOf : Instr → WriteSet
  | .nop => ⟨[], [], [], false⟩
  | .wipeAll => ⟨allRegs, allRegs, allRegs, true⟩
  | .feWipe rd => ⟨[rd], [], [], false⟩
  | .geWipe rd => ⟨[], [rd], [], false⟩
  | .bWipe rd => ⟨[], [], [rd], false⟩
  | .feZero rd => ⟨[rd], [], [], false⟩
  | .feOne rd => ⟨[rd], [], [], false⟩
  | .feFromBytes rd _ => ⟨[rd], [], [], false⟩
  | .feToBytes rd _ => ⟨[], [], [rd], false⟩
  | .feAdd rd _ _ => ⟨[rd], [], [], false⟩
  | .feSub rd _ _ => ⟨[rd], [], [], false⟩
  | .feMul rd _ _ => ⟨[rd], [], [], false⟩
  | .feSq rd _ => ⟨[rd], [], [], false⟩
  | .feSq2 rd _ => ⟨[rd], [], [], false⟩
  | .feMulSmall rd _ => ⟨[rd], [], [], false⟩
  | .feInvert rd _ => ⟨[rd], [], [], false⟩
  | .fePow2523 rd _ => ⟨[rd], [], [], false⟩
  | .feIsNeg _ => ⟨[], [], [], true⟩
  | .feIsNz _ => ⟨[], [], [], true⟩
  | .feNeg rd _ => ⟨[rd], [], [], false⟩
  | .feCswap ra rb => ⟨[ra, rb], [], [], false⟩
  | .scReduce rd => ⟨[], [], [wLow rd], false⟩
  | .scMuladd rd _ _ _ => ⟨[], [], [rd], false⟩
  | .scCheckLtL _ => ⟨[], [], [], true⟩
  | .geIdent rd => ⟨[], [rd], [], false⟩
  | .geP3ToCached rd _ => ⟨[], [rd], [], false⟩
  | .geP3ToP2 rd _ => ⟨[], [rd], [], false⟩
  | .geP1p1ToP2 rd _ => ⟨[], [rd], [], false⟩
  | .geP1p1ToP3 rd _ => ⟨[], [rd], [], false⟩
  | .geAdd rd _ _ => ⟨[], [rd], [], false⟩
  | .geSub rd _ _ => ⟨[], [rd], [], false⟩
  | .geMadd rd _ _ => ⟨[], [rd], [], false⟩
  | .geMsub rd _ _ => ⟨[], [rd], [], false⟩
  | .geP2Dbl rd _ => ⟨[], [rd], [], false⟩
  | .geP3Dbl rd _ => ⟨[], [rd], [], false⟩
  | .geEncode rd _ => ⟨[], [], [rd], false⟩
  | .geDecode rd _ => ⟨[], [rd], [], true⟩
  | .geDecodeNeg rd _ => ⟨[], [rd], [], true⟩
  | .geSelect rd => ⟨[], [rd], [], false⟩
  | .geLoadBi rd => ⟨[], [rd], [], false⟩
  | .geScalarmultBase rd _ => ⟨[], [rd], [], false⟩
  | .geDoubleScalarmultVt rd _ _ _ => ⟨[], [rd], [], false⟩
  | .x25519 rd _ _ => ⟨[], [], [rd], false⟩
  | .x25519Base rd _ => ⟨[], [], [rd], false⟩
  | .edFromSeed rd ra _ => ⟨[], [], [wLow rd, wHigh rd, ra], false⟩
  | .edFrom rd ra _ => ⟨[], [], [wLow rd, wHigh rd, ra], false⟩
  | .edGenerate rd ra => ⟨[], [], [wLow rd, wHigh rd, ra], false⟩
  | .edSign rd _ _ => ⟨[], [], [wLow rd, wHigh rd], false⟩
  | .edVerify _ _ => ⟨[], [], [], true⟩

/-! ## Which check fails first (R99) -/

/-- The variants of a point value (R26). -/
inductive Variant where
  | p2
  | p3
  | p1p1
  | cached
  | precomp
  deriving DecidableEq, Repr

/-- The variant a point value has (R26). -/
def Point.variant : Point → Variant
  | .p2 _ => .p2
  | .p3 _ => .p3
  | .p1p1 _ => .p1p1
  | .cached _ => .cached
  | .precomp _ => .precomp

/-- A source that R99 (2) checks: an F register, or a G register with the variants the command accepts. -/
inductive Source where
  | f (r : Reg)
  | g (r : Reg) (accepted : List Variant)
  deriving DecidableEq, Repr

/-- The F and G sources of a command in the order `ra`, `rb`, `rc` (R96, R99 (2)), with the variants of
R285's list; a command without one has none. -/
def sourcesOf : Instr → List Source
  | .feToBytes _ ra | .feSq _ ra | .feSq2 _ ra | .feMulSmall _ ra | .feInvert _ ra | .fePow2523 _ ra
  | .feIsNeg ra | .feIsNz ra | .feNeg _ ra => [.f ra]
  | .feAdd _ ra rb | .feSub _ ra rb | .feMul _ ra rb | .feCswap ra rb => [.f ra, .f rb]
  | .geP3ToCached _ ra | .geP3ToP2 _ ra | .geP3Dbl _ ra => [.g ra [.p3]]
  | .geP1p1ToP2 _ ra | .geP1p1ToP3 _ ra => [.g ra [.p1p1]]
  | .geAdd _ ra rb | .geSub _ ra rb => [.g ra [.p3], .g rb [.cached]]
  | .geMadd _ ra rb | .geMsub _ ra rb => [.g ra [.p3], .g rb [.precomp]]
  | .geP2Dbl _ ra => [.g ra [.p2]]
  | .geEncode _ ra => [.g ra [.p2, .p3]]
  | .geDoubleScalarmultVt _ _ rb _ => [.g rb [.p3]]
  | .nop | .wipeAll | .feWipe _ | .geWipe _ | .bWipe _ | .feZero _ | .feOne _ | .feFromBytes _ _
  | .scReduce _ | .scMuladd _ _ _ _ | .scCheckLtL _ | .geIdent _ | .geDecode _ _ | .geDecodeNeg _ _
  | .geSelect _ | .geLoadBi _ | .geScalarmultBase _ _ | .x25519 _ _ _ | .x25519Base _ _ | .edFromSeed _ _ _
  | .edFrom _ _ _ | .edGenerate _ _ | .edSign _ _ _ | .edVerify _ _ => []

/-- Check (2) of R99 on one source: Empty before a wrong variant. -/
def sourceError (s : State) : Source → Option ErrCode
  | .f r => if readF s r = none then some .empty else none
  | .g r accepted =>
    match readG s r with
    | none => some .empty
    | some pt => if pt.variant ∈ accepted then none else some .tag

/-- `GE_SELECT`'s operands in `ARG` are in range (R93): bits 31:16 zero, pos at most 31, the digit's byte 0 to 8
or, as −8 to −1, 248 to 255. -/
def selectInRange (arg : Nat) : Bool :=
  decide (arg / 65536 = 0) && decide (arg % 256 ≤ 31) &&
    (decide (arg / 256 % 256 ≤ 8) || decide (248 ≤ arg / 256 % 256))

/-- Check (3) of R99: the range of `ARG` (R93) and the overlap of destinations (R101). -/
def operandError (s : State) : Instr → Option ErrCode
  | .geSelect _ => if selectInRange s.arg.toNat then none else some .illegal
  | .geLoadBi _ => if s.arg.toNat ≤ 7 then none else some .illegal
  | .edFromSeed rd ra _ | .edFrom rd ra _ | .edGenerate rd ra =>
    if ra.toNat = 2 * rd.toNat ∨ ra.toNat = 2 * rd.toNat + 1 then some .illegal else none
  | _ => none

/-- Check (4) of R99: `MSGLEN` above 4096 for the two commands that take a message. -/
def messageError (s : State) : Instr → Option ErrCode
  | .edSign _ _ _ | .edVerify _ _ => if s.msglen.toNat ≤ 4096 then none else some .msglen
  | _ => none

/-- The one error of execution, (5) of R99: the random port answers "failure" to `ED_GENERATE`. -/
def executionError (s : State) : Instr → Option ErrCode
  | .edGenerate _ _ => if nextDraw s = none then some .invalidKey else none
  | _ => none

/-- The first failing check in the order of R99, `none` where the command succeeds. -/
def firstError (s : State) (i : Instr) : Option ErrCode :=
  if i.wf = false then some .illegal
  else
    ((sourcesOf i).findSome? (sourceError s)).orElse fun _ =>
      (operandError s i).orElse fun _ => (messageError s i).orElse fun _ => executionError s i

/-! ## What the timing of a command may depend on (R320, R321) -/

/-- What check (2) of R99 looks at in a source: the Empty mark, and the tag of a G register. -/
inductive SourceFact where
  | empty
  | value
  | tag (v : Variant)
  deriving DecidableEq, Repr

/-- The Empty mark and the tag of one source (R99 (2)). -/
def sourceFact (s : State) : Source → SourceFact
  | .f r => if readF s r = none then .empty else .value
  | .g r _ =>
    match readG s r with
    | none => .empty
    | some pt => .tag pt.variant

/-- The facts that the checks of R99 use, one field per check, (1) to (5). Of `ARG` it is only whether the
operands are in range, of `MSGLEN` whether the message fits, of the random port whether its answer is "failure". -/
structure CheckFacts where
  legal : Bool
  sources : List SourceFact
  operand : Option ErrCode
  message : Option ErrCode
  execution : Option ErrCode
  deriving DecidableEq, Repr

/-- The facts of a command in a state (R99). -/
def checkFacts (i : Instr) (s : State) : CheckFacts :=
  { legal := i.wf
    sources := (sourcesOf i).map (sourceFact s)
    operand := operandError s i
    message := messageError s i
    execution := executionError s i }

/-- The property R321 states of an observation `leak` of an implementation: for the word of a CT command it depends
only on the word, `MSGLEN` and the facts that the checks of R99 use. -/
def leakContract {α : Type} (leak : Word → State → α) : Prop :=
  ∀ (w : Word) (i : Instr) (s t : State), decode w = .ok i → Instr.timeClass i = .constantTime → s.msglen = t.msglen →
    checkFacts i s = checkFacts i t → leak w s = leak w t

/-! ## Reset (R42) -/

/-- Every piece of the engine's state has the value of R42's table. -/
def resetValues (s : State) : Prop :=
  (∀ r : Reg, readB s r = 0#256) ∧ (∀ r : Reg, readF s r = none) ∧ (∀ r : Reg, readG s r = none) ∧
    s.flagT = false ∧ s.arg = 0#32 ∧ statusWord s = 0#32 ∧ s.errcode = 0#32 ∧ ctrlWord s = 0#32 ∧
    s.msglen = 0#32 ∧ (∀ a, memRead s.msg a = 0#8) ∧ s.pend = none ∧ s.irq = false

/-- The engine's turn comes next in `s`, and `rest` is the schedule after it (log entry 1). -/
def engineTurn (s : State) (rest : List Event) : Prop :=
  s.agenda = .engine :: rest ∨ (s.agenda = [] ∧ rest = [])

/-! ## What the host can see (R23, R26, R40) -/

/-- Two states that differ at most in what no host access may show: the F and G registers and the pending
command word, and, while a command is pending, the storage that belongs to the engine. -/
def hostEquivalent (s t : State) : Prop :=
  s.busy = t.busy ∧ s.flagT = t.flagT ∧ s.arg = t.arg ∧ s.done = t.done ∧ s.err = t.err ∧ s.accv = t.accv ∧
    s.errcode = t.errcode ∧ s.ie = t.ie ∧ s.msglen = t.msglen ∧ s.rdata = t.rdata ∧
    (s.busy = false → s.b = t.b ∧ s.msg = t.msg)

end Sys2Proof.Machine
end

