-- ==== Sys2Proof/Certificates/Slice0/Obligations.lean ====
section
/-! DEFINITION. The statements for the provers. Each docstring names the rule of spec/ it formalises, or, for a
statement that rests on a choice of the model, the log entry.
-/
open Sys2Proof Sys2Proof.Machine

/-! ## Encoding -/

/-- R90, R92, R95, R102: every well-formed command's word decodes to that command, every operand at every value
the encoding admits. -/
def Obligations.DecodeOfEncodedCommand : Prop := ∀ i : Instr, i.wf = true → decode (encode i) = .ok i

/-- R92, R95: a word that decodes is exactly the encoding of what it decodes to, which is well formed; so no two
words are one command and no bit of a word is ignored. -/
def Obligations.EncodeOfDecodedWord : Prop :=
  ∀ (w : Word) (i : Instr), decode w = .ok i → encode i = w ∧ i.wf = true

/-- R92: a word is a command exactly when its opcode is one of the 49, bits 31:24 are 0, every unused field is 0
and bit 3 of every G and W field is 0, by the table of kinds and not by the decoder's masks; every other word
raises `ERR_ILLEGAL` at completion. -/
def Obligations.LegalWordsAreTheCommands : Prop :=
  ∀ w : Word, ((∃ i, decode w = .ok i) ↔ wordLegal w) ∧
    (¬ wordLegal w → ∀ (s : State) (rest : List Event), engineTurn s rest → s.pend = some w →
      step s = .next (takeError { s with agenda := rest } .illegal))

/-- R96, R102: words written out from the table, one of each family, and R283's three illegal words. -/
def Obligations.SpecWordsDecode : Prop :=
  decode 0x00000000#32 = .ok .nop ∧ decode 0x00021314#32 = .ok (.feAdd 3#4 1#4 2#4) ∧
    decode 0x00432121#32 = .ok (.scMuladd 1#4 2#4 3#4 4#4) ∧ decode 0x00000139#32 = .ok (.geP2Dbl 1#4 0#4) ∧
    decode 0x00432143#32 = .ok (.geDoubleScalarmultVt 1#4 2#4 3#4 4#4) ∧
    decode 0x00021050#32 = .ok (.x25519 0#4 1#4 2#4) ∧ decode 0x00021364#32 ≠ .ok (.edVerify 1#4 2#4) ∧
    decode 0x00021064#32 = .ok (.edVerify 1#4 2#4) ∧ decode 0x00000005#32 = .error .unusedOpcode ∧
    decode 0x00000830#32 = .error .illegalField ∧ decode 0x01000000#32 = .error .reservedByte

/-! ## One step -/

/-- R95, R296: when the engine has the turn and the word in `PEND` decodes to a command, the step is that
command's completion, on the state with the schedule moved on. There is no program counter (R33). -/
def Obligations.StepRunsDecodedCommand : Prop :=
  ∀ (s : State) (rest : List Event) (w : Word) (i : Instr), engineTurn s rest → s.pend = some w →
    decode w = .ok i → step s = exec i { s with agenda := rest }

/-- R283 (R97, R101, R224, R225): an illegal word completes with `ERR_ILLEGAL` and changes nothing else, and so do
an `ARG` out of range for `GE_SELECT` and `GE_LOAD_BI` and overlapping destinations of the three key commands. -/
def Obligations.ErrIllegalConditions : Prop :=
  (∀ (s : State) (rest : List Event) (w : Word), engineTurn s rest → s.pend = some w → ¬ wordLegal w →
      step s = .next (takeError { s with agenda := rest } .illegal)) ∧
    (∀ (s : State) (rd : Reg), rd.toNat < 8 → selectInRange s.arg.toNat = false →
      exec (.geSelect rd) s = .next (takeError s .illegal)) ∧
    (∀ (s : State) (rd : Reg), rd.toNat < 8 → 7 < s.arg.toNat →
      exec (.geLoadBi rd) s = .next (takeError s .illegal)) ∧
    (∀ (s : State) (rd ra rb : Reg), rd.toNat < 8 → ra.toNat = 2 * rd.toNat ∨ ra.toNat = 2 * rd.toNat + 1 →
      exec (.edFromSeed rd ra rb) s = .next (takeError s .illegal) ∧
        (rb.toNat < 8 → exec (.edFrom rd ra rb) s = .next (takeError s .illegal)) ∧
        exec (.edGenerate rd ra) s = .next (takeError s .illegal))

/-- R18, R296, R310, with the schedule of log entry 1: an idle engine's turn changes nothing, a scheduled host
access is `hostStep`, a scheduled hard reset is `resetEngine`; and log entry 7: an access above the window stops. -/
def Obligations.StepFollowsSchedule : Prop :=
  (∀ (s : State) (rest : List Event), engineTurn s rest → s.busy = false → step s = .next { s with agenda := rest }) ∧
    (∀ (s : State) (rest : List Event) (a : HostAccess), s.agenda = .host a :: rest →
      step s = hostStep a { s with agenda := rest }) ∧
    (∀ (s : State) (rest : List Event), s.agenda = .hardReset :: rest →
      step s = .next (resetEngine { s with agenda := rest })) ∧
    (∀ (s : State) (o : Nat) (w : AccessWidth) (v : Word), 0x2000 ≤ o →
      hostStep (.read o w) s = .fault .offsetOutsideWindow ∧ hostStep (.write o w v) s = .fault .offsetOutsideWindow)

/-- R310, R311, with the table of R42: after a hard reset, and after a `CTRL` write with SRST = 1 whatever the state
and the other bits, every piece of the engine's state has its reset value and no random draw is made (the port is
as it was); SRST reads as 0 always. The state after reset has the same values. -/
def Obligations.ResetValuesHold : Prop :=
  resetValues State.reset ∧
    (∀ (s : State) (rest : List Event), s.agenda = .hardReset :: rest →
      ∃ t, step s = .next t ∧ resetValues t ∧ t.rng = s.rng ∧ t.draws = s.draws) ∧
    (∀ (s : State) (v : Word), v.getLsbD 1 = true →
      ∃ t, hostStep (.write 0x14 .w32 v) s = .next t ∧ resetValues t ∧ t.rng = s.rng ∧ t.draws = s.draws) ∧
    ∀ s : State, ∃ x : Word, hostStep (.read 0x14 .w32) s = .next { s with rdata := some x } ∧ x.getLsbD 1 = false

/-! ## The host bus -/

/-- R295: a `CMD` write is accepted exactly when BUSY = 0 and ERR = 0, and then does three things; one that is
not accepted only sets ACCV. BUSY is the presence of a pending word (log entry 5). -/
def Obligations.CmdWriteIssues : Prop :=
  ∀ (s : State) (w : Word),
    (s.busy = false → s.err = false →
      ∃ t, hostStep (.write 0x4 .w32 w) s = .next t ∧ t = { s with pend := some w, done := false } ∧
        t.busy = true) ∧
    (s.busy = true ∨ s.err = true → hostStep (.write 0x4 .w32 w) s = .next { s with accv := true })

/-- R66: while BUSY the operand storage is refused to the host, and the other registers behave as ever. -/
def Obligations.BusyProtectsOperandStorage : Prop :=
  ∀ s : State, s.busy = true →
    (∀ o, o % 4 = 0 → (0x200 ≤ o ∧ o < 0x400) ∨ (0x1000 ≤ o ∧ o < 0x2000) →
      hostStep (.read o .w32) s = .next { s with rdata := some 0#32, accv := true }) ∧
    (∀ (o : Nat) (v : Word), o % 4 = 0 →
      (0x200 ≤ o ∧ o < 0x400) ∨ (0x1000 ≤ o ∧ o < 0x2000) ∨ o = 0x8 ∨ o = 0x18 ∨ o = 0x4 →
      hostStep (.write o .w32 v) s = .next { s with accv := true }) ∧
    (∀ (o : Nat) (x : Word),
      (o, x) ∈ [(0x0, 0x25519007#32), (0x8, s.arg), (0xC, statusWord s), (0x10, s.errcode), (0x14, ctrlWord s),
        (0x18, s.msglen)] →
      hostStep (.read o .w32) s = .next { s with rdata := some x }) ∧
    (∀ v : Word, hostStep (.write 0xC .w32 v) s = .next (writeStatus s v) ∧
      hostStep (.write 0x14 .w32 v) s = .next (writeCtrl s v))

/-- R65, and the first sentence of R67: an access that is not an aligned 32-bit one, or is to a reserved offset, is
refused: a read returns 0, a write changes nothing, ACCV is set. -/
def Obligations.RefusedAccesses : Prop :=
  ∀ (s : State) (o : Nat) (w : AccessWidth) (v : Word), o < 0x2000 →
    w ≠ .w32 ∨ o % 4 ≠ 0 ∨ (0x1C ≤ o ∧ o ≤ 0x1FF) ∨ (0x400 ≤ o ∧ o ≤ 0xFFF) →
    hostStep (.read o w) s = .next { s with rdata := some 0#32, accv := true } ∧
      hostStep (.write o w v) s = .next { s with accv := true }

/-- R29, R30, R34, R35, R36, R68: what the registers below the windows read as and what a write to them does. -/
def Obligations.RegisterReadsAndWrites : Prop :=
  ∀ (s : State) (v : Word),
    hostStep (.read 0x0 .w32) s = .next { s with rdata := some 0x25519007#32 } ∧
    hostStep (.read 0x4 .w32) s = .next { s with rdata := some 0#32 } ∧
    hostStep (.read 0x8 .w32) s = .next { s with rdata := some s.arg } ∧
    hostStep (.read 0x10 .w32) s = .next { s with rdata := some s.errcode } ∧
    hostStep (.read 0x14 .w32) s = .next { s with rdata := some (if s.ie then 1#32 else 0#32) } ∧
    hostStep (.read 0x18 .w32) s = .next { s with rdata := some s.msglen } ∧
    hostStep (.write 0x0 .w32 v) s = .next { s with accv := true } ∧
    hostStep (.write 0x10 .w32 v) s = .next { s with accv := true } ∧
    (v.getLsbD 1 = false → hostStep (.write 0x14 .w32 v) s = .next { s with ie := v.getLsbD 0 }) ∧
    (s.busy = false → hostStep (.write 0x8 .w32 v) s = .next { s with arg := v } ∧
      hostStep (.write 0x18 .w32 v) s = .next { s with msglen := v })

/-- R63: the word at `0x0200 + 32·k + 4·m` is bits [32m+31 : 32m] of `int_le(B[k])`, and the sixteen words from
`0x0200 + 64·j` are those of `W[j]`; a write replaces the four bytes of its word, and leaves the register's other 28
bytes and everything else unchanged. -/
def Obligations.BregWindow : Prop :=
  ∀ (s : State) (v : Word), s.busy = false →
    (∀ k m : Nat, k < 16 → m < 8 →
      ∃ x : Word, hostStep (.read (0x200 + 32 * k + 4 * m) .w32) s = .next { s with rdata := some x } ∧
        x.toNat = (readB s (BitVec.ofNat 4 k)).toNat / 2 ^ (32 * m) % 2 ^ 32) ∧
    (∀ j m : Nat, j < 8 → m < 16 →
      ∃ x : Word, hostStep (.read (0x200 + 64 * j + 4 * m) .w32) s = .next { s with rdata := some x } ∧
        x.toNat = (readW s (BitVec.ofNat 4 j)).toNat / 2 ^ (32 * m) % 2 ^ 32) ∧
    ∀ k m : Nat, k < 16 → m < 8 →
      ∃ t, hostStep (.write (0x200 + 32 * k + 4 * m) .w32 v) s = .next t ∧ t = { s with b := t.b } ∧
        (∀ i, i < 32 → byteAt (readB t (BitVec.ofNat 4 k)) i =
          if i / 4 = m then byteAt v (i % 4) else byteAt (readB s (BitVec.ofNat 4 k)) i) ∧
        ∀ r : Reg, r ≠ BitVec.ofNat 4 k → readB t r = readB s r

/-- R62, R64: the word at `0x1000 + a` holds `MSG[a]` to `MSG[a+3]`, lowest byte first; a write stores its four
bytes there and leaves every other byte of the RAM and everything else unchanged. -/
def Obligations.MsgWindow : Prop :=
  ∀ (s : State) (a : Nat) (v : Word), a % 4 = 0 → a < 4096 → s.busy = false → memCanonical s →
    (∃ x : Word, hostStep (.read (0x1000 + a) .w32) s = .next { s with rdata := some x } ∧
      ∀ j, j < 4 → byteAt x j = memRead s.msg (a + j)) ∧
    (∃ t, hostStep (.write (0x1000 + a) .w32 v) s = .next t ∧ t = { s with msg := t.msg } ∧ memCanonical t ∧
      (∀ j, j < 4 → memRead t.msg (a + j) = byteAt v j) ∧
      ∀ c, c < a ∨ a + 4 ≤ c → memRead t.msg c = memRead s.msg c)

/-- R31: what `STATUS` reads as, and that a written 1 in bit 1, 2 or 4 clears that bit (bit 2 also `ERRCODE`),
at any time, and nothing else changes. -/
def Obligations.StatusRegister : Prop :=
  ∀ (s : State) (v : Word),
    (∃ x : Word, hostStep (.read 0xC .w32) s = .next { s with rdata := some x } ∧
      x.toNat = s.busy.toNat + 2 * s.done.toNat + 4 * s.err.toNat + 8 * s.flagT.toNat + 16 * s.accv.toNat) ∧
    hostStep (.write 0xC .w32 v) s =
      .next { s with
        done := s.done && !v.getLsbD 1
        err := s.err && !v.getLsbD 2
        accv := s.accv && !v.getLsbD 4
        errcode := if v.getLsbD 2 then 0#32 else s.errcode }

/-- R70: a read changes nothing but the value returned and, when it is refused and returns 0, ACCV; reading again
gives the same. -/
def Obligations.ReadsHaveNoSideEffect : Prop :=
  ∀ (s t : State) (o : Nat) (w : AccessWidth), hostStep (.read o w) s = .next t →
    t = { s with accv := t.accv, rdata := t.rdata } ∧ (s.accv = true → t.accv = true) ∧
      (t.accv ≠ s.accv → t.rdata = some 0#32) ∧ hostStep (.read o w) t = .next t

/-- R290: `irq` is IE and DONE, so neither ERR nor ACCV raises it; a completion with or without error raises it
exactly when IE = 1; issuing the next command, clearing DONE and resetting lower it. -/
def Obligations.InterruptOutput : Prop :=
  (∀ s : State, s.irq = true ↔ s.ie = true ∧ s.done = true) ∧
    (∀ (i : Instr) (s t : State), exec i s = .next t → t.irq = s.ie) ∧
    (∀ (s t : State) (w : Word), s.busy = false → s.err = false → hostStep (.write 0x4 .w32 w) s = .next t →
      t.irq = false) ∧
    (∀ (s t : State) (v : Word), v.getLsbD 1 = true →
      hostStep (.write 0xC .w32 v) s = .next t ∨ hostStep (.write 0x14 .w32 v) s = .next t → t.irq = false) ∧
    ∀ (s t : State) (rest : List Event), s.agenda = .hardReset :: rest → step s = .next t → t.irq = false

/-- R23, R26, R40: no host access tells two states apart that differ in the F and G registers, in the pending word
or, while BUSY, in the operand storage; the states after it are again alike. -/
def Obligations.HostCannotSeeHiddenState : Prop :=
  ∀ (a : HostAccess) (s t : State), hostEquivalent s t →
    (∀ s', hostStep a s = .next s' → ∃ t', hostStep a t = .next t' ∧ hostEquivalent s' t') ∧
      ∀ r, hostStep a s = .fault r → hostStep a t = .fault r

/-! ## Every command -/

/-- R296: every command, on every state, completes: BUSY is 0 and DONE is 1 after it; and it leaves IE, ACCV
and what is outside the engine's reach alone. -/
def Obligations.EveryCommandCompletes : Prop :=
  ∀ (i : Instr) (s : State),
    ∃ t, exec i s = .next t ∧ t.busy = false ∧ t.done = true ∧ t.ie = s.ie ∧ t.accv = s.accv ∧
      t.agenda = s.agenda ∧ t.rdata = s.rdata

/-- R281: a command that raises an error sets ERR and one of the five codes, DONE and BUSY, and changes nothing
else (a draw of the random port is used up, log entry 3). -/
def Obligations.ErrorChangesNothingElse : Prop :=
  ∀ (i : Instr) (s t : State), exec i s = .next t → s.err = false → t.err = true →
    t = { s with err := true, errcode := t.errcode, done := true, pend := none, rng := t.rng, draws := t.draws } ∧
      1 ≤ t.errcode.toNat ∧ t.errcode.toNat ≤ 5

/-- R99: the first failing check decides: legality of the word, then per source in the order ra, rb, rc Empty before a
wrong variant, then `ARG` range and overlap, then `MSGLEN`, then the random port, which is consulted only when
every other check has passed (R254, R274, R288; that a failing draw is used up is the model's choice, log entry 3); a
command whose checks pass leaves ERR and `ERRCODE`
as they were. -/
def Obligations.FirstFailingCheckDecides : Prop :=
  (∀ (s : State) (rest : List Event) (w : Word), engineTurn s rest → s.pend = some w → ¬ wordLegal w →
    step s = .next (takeError { s with agenda := rest } .illegal)) ∧
  ∀ (i : Instr) (s : State),
    (∀ e, firstError s i = some e → e ≠ .invalidKey → exec i s = .next (takeError s e)) ∧
    (firstError s i = some .invalidKey → exec i s = .next (takeError (takeDraw s) .invalidKey)) ∧
    (firstError s i = none → ∃ t, exec i s = .next t ∧ t.err = s.err ∧ t.errcode = s.errcode)

/-- R28: only `FE_IS_NEG`, `FE_IS_NZ`, `SC_CHECK_LT_L`, `GE_DECODE`, `GE_DECODE_NEG` and `ED_VERIFY` write `T`, and
`WIPE_ALL` clears it; a command that ends in an error leaves it. -/
def Obligations.OnlySixCommandsWriteT : Prop :=
  ∀ (i : Instr) (s t : State), exec i s = .next t →
    (i.opcode ∉ [0x1C#8, 0x1D#8, 0x22#8, 0x3C#8, 0x3D#8, 0x64#8, 0x01#8] → t.flagT = s.flagT) ∧
    (i = .wipeAll → t.flagT = false) ∧ (s.err = false → t.err = true → t.flagT = s.flagT)

/-- R28, R29, R36, R37, R273 and the access table the spec derives in R43: the frame of every command. A register that is not one of its destinations is
unchanged; `T` is unchanged unless it writes `T`; `ARG`, `MSGLEN` and every byte of `MSG` are unchanged unless it
is `WIPE_ALL`; the random port is untouched unless it is `ED_GENERATE`. -/
def Obligations.CommandFrame : Prop :=
  ∀ (i : Instr) (s t : State), exec i s = .next t →
    (∀ r, r ∉ (writesOf i).f → readF t r = readF s r) ∧
    (∀ r, (∀ d ∈ (writesOf i).g, gIndex d ≠ gIndex r) → readG t r = readG s r) ∧
    (∀ r, r ∉ (writesOf i).b → readB t r = readB s r) ∧
    ((writesOf i).t = false → t.flagT = s.flagT) ∧
    (i ≠ .wipeAll → t.arg = s.arg ∧ t.msglen = s.msglen ∧ ∀ a, memRead t.msg a = memRead s.msg a) ∧
    ((∀ rd ra, i ≠ .edGenerate rd ra) → t.rng = s.rng ∧ t.draws = s.draws) ∧
    t.ie = s.ie ∧ t.accv = s.accv ∧ t.agenda = s.agenda ∧ t.rdata = s.rdata

/-- R285: the variants each command requires of its G sources; a source of another variant raises `ERR_TAG`. -/
def Obligations.WrongVariantRaisesTag : Prop :=
  ∀ (s : State) (rd ra rb rc : Reg) (pt : Point), rd.toNat < 8 → ra.toNat < 8 → readG s ra = some pt →
    (pt.variant ≠ .p3 →
      exec (.geP3ToCached rd ra) s = .next (takeError s .tag) ∧
      exec (.geP3ToP2 rd ra) s = .next (takeError s .tag) ∧ exec (.geP3Dbl rd ra) s = .next (takeError s .tag) ∧
      (rb.toNat < 8 →
        exec (.geAdd rd ra rb) s = .next (takeError s .tag) ∧ exec (.geSub rd ra rb) s = .next (takeError s .tag) ∧
        exec (.geMadd rd ra rb) s = .next (takeError s .tag) ∧ exec (.geMsub rd ra rb) s = .next (takeError s .tag)) ∧
      exec (.geDoubleScalarmultVt rd rb ra rc) s = .next (takeError s .tag)) ∧
    (pt.variant ≠ .p1p1 →
      exec (.geP1p1ToP2 rd ra) s = .next (takeError s .tag) ∧
      exec (.geP1p1ToP3 rd ra) s = .next (takeError s .tag)) ∧
    (pt.variant ≠ .p2 → exec (.geP2Dbl rd ra) s = .next (takeError s .tag)) ∧
    (pt.variant ≠ .p2 → pt.variant ≠ .p3 → exec (.geEncode rc ra) s = .next (takeError s .tag)) ∧
    (∀ (v : P3) (q : Point), pt = .p3 v → rb.toNat < 8 → readG s rb = some q →
      (q.variant ≠ .cached →
        exec (.geAdd rd ra rb) s = .next (takeError s .tag) ∧ exec (.geSub rd ra rb) s = .next (takeError s .tag)) ∧
      (q.variant ≠ .precomp →
        exec (.geMadd rd ra rb) s = .next (takeError s .tag) ∧
        exec (.geMsub rd ra rb) s = .next (takeError s .tag)))

/-! ## What the commands compute -/

/-- R120 to R124: `NOP` changes nothing but BUSY and DONE; `WIPE_ALL` clears every register, `MSG`, `MSGLEN`, `ARG`
and `T` and keeps `CTRL`, `ERRCODE`, ERR and ACCV; the three single wipes clear one register. -/
def Obligations.SystemCommandResults : Prop :=
  ∀ (s : State) (rd : Reg),
    exec .nop s = .next { s with pend := none, done := true } ∧
    (∃ t, exec .wipeAll s = .next t ∧ (∀ r, readF t r = none) ∧ (∀ r, readG t r = none) ∧
      (∀ r, readB t r = 0#256) ∧ (∀ a, memRead t.msg a = 0#8) ∧ t.msglen = 0#32 ∧ t.arg = 0#32 ∧ t.flagT = false ∧
      t.ie = s.ie ∧ t.errcode = s.errcode ∧ t.err = s.err ∧ t.accv = s.accv ∧ t.done = true) ∧
    exec (.feWipe rd) s = .next (finish (putF s rd none)) ∧
    (rd.toNat < 8 → exec (.geWipe rd) s = .next (finish (putG s rd none))) ∧
    (8 ≤ rd.toNat → exec (.geWipe rd) s = .next (takeError s .illegal)) ∧
    exec (.bWipe rd) s = .next (finish (writeB s rd 0#256))

/-- R132 to R135: the constants, the load of a field value from a B register (bit 255 dropped, then mod p), its
store as the bytes of the canonical value, and `ERR_EMPTY` for the store of an Empty register. -/
def Obligations.FieldLoadAndStore : Prop :=
  ∀ (s : State) (rd ra : Reg),
    (∃ z : Fe, z.val = 0 ∧ exec (.feZero rd) s = .next (finish (putF s rd (some z)))) ∧
    (∃ e : Fe, e.val = 1 ∧ exec (.feOne rd) s = .next (finish (putF s rd (some e)))) ∧
    (∃ v : Fe, v.val = (readB s ra).toNat % 2 ^ 255 % prime25519 ∧
      exec (.feFromBytes rd ra) s = .next (finish (putF s rd (some v)))) ∧
    (∀ a, readF s ra = some a →
      ∃ x : Bytes32, x.toNat = a.val ∧ exec (.feToBytes rd ra) s = .next (finish (writeB s rd x))) ∧
    (readF s ra = none → exec (.feToBytes rd ra) s = .next (takeError s .empty))

/-- R136 to R138: sum, difference and product mod p of two field registers, and `ERR_EMPTY` where one is Empty. -/
def Obligations.FieldRingCommands : Prop :=
  ∀ (s : State) (rd ra rb : Reg),
    (∀ a b, readF s ra = some a → readF s rb = some b →
      (∃ c : Fe, c.val = (a.val + b.val) % prime25519 ∧
        exec (.feAdd rd ra rb) s = .next (finish (putF s rd (some c)))) ∧
      (∃ c : Fe, c.val = (if b.val ≤ a.val then a.val - b.val else a.val + prime25519 - b.val) ∧
        exec (.feSub rd ra rb) s = .next (finish (putF s rd (some c)))) ∧
      (∃ c : Fe, c.val = a.val * b.val % prime25519 ∧
        exec (.feMul rd ra rb) s = .next (finish (putF s rd (some c))))) ∧
    (readF s ra = none ∨ readF s rb = none →
      exec (.feAdd rd ra rb) s = .next (takeError s .empty) ∧
      exec (.feSub rd ra rb) s = .next (takeError s .empty) ∧
      exec (.feMul rd ra rb) s = .next (takeError s .empty))

/-- R139, R140, R145, R147: square, twice the square, negative, product with the unsigned `ARG`, mod p, and
`ERR_EMPTY` where the source is Empty. -/
def Obligations.FieldUnaryCommands : Prop :=
  ∀ (s : State) (rd ra : Reg),
    (∀ a, readF s ra = some a →
      (∃ c : Fe, c.val = a.val ^ 2 % prime25519 ∧ exec (.feSq rd ra) s = .next (finish (putF s rd (some c)))) ∧
      (∃ c : Fe, c.val = 2 * a.val ^ 2 % prime25519 ∧
        exec (.feSq2 rd ra) s = .next (finish (putF s rd (some c)))) ∧
      (∃ c : Fe, c.val = (prime25519 - a.val) % prime25519 ∧
        exec (.feNeg rd ra) s = .next (finish (putF s rd (some c)))) ∧
      (∃ c : Fe, c.val = a.val * s.arg.toNat % prime25519 ∧
        exec (.feMulSmall rd ra) s = .next (finish (putF s rd (some c))))) ∧
    (readF s ra = none →
      exec (.feSq rd ra) s = .next (takeError s .empty) ∧ exec (.feSq2 rd ra) s = .next (takeError s .empty) ∧
      exec (.feNeg rd ra) s = .next (takeError s .empty) ∧
      exec (.feMulSmall rd ra) s = .next (takeError s .empty))

/-- R141, R142: `FE_INVERT` gives a^(p−2) mod p, which is the inverse of a nonzero a and 0 for 0; `FE_POW2523`
gives a^((p−5)/8) mod p; `ERR_EMPTY` where the source is Empty. -/
def Obligations.FieldPowerCommands : Prop :=
  ∀ (s : State) (rd ra : Reg),
    (∀ a, readF s ra = some a →
      (∃ c : Fe, c.val = a.val ^ (2 ^ 255 - 21) % prime25519 ∧
        (a.val ≠ 0 → a.val * c.val % prime25519 = 1) ∧ (a.val = 0 → c.val = 0) ∧
        exec (.feInvert rd ra) s = .next (finish (putF s rd (some c)))) ∧
      (∃ c : Fe, c.val = a.val ^ (2 ^ 252 - 3) % prime25519 ∧
        exec (.fePow2523 rd ra) s = .next (finish (putF s rd (some c))))) ∧
    (readF s ra = none →
      exec (.feInvert rd ra) s = .next (takeError s .empty) ∧
      exec (.fePow2523 rd ra) s = .next (takeError s .empty))

/-- R143, R144, R146: the parity and the nonzero test of the canonical value go to `T` and nowhere else; the swap
exchanges the two registers exactly when `ARG[0]` is 1; `ERR_EMPTY` where a source is Empty. -/
def Obligations.FieldPredicatesAndSwap : Prop :=
  ∀ (s : State) (ra rb : Reg),
    (∀ a, readF s ra = some a →
      exec (.feIsNeg ra) s = .next (finish (setT s (decide (a.val % 2 = 1)))) ∧
      exec (.feIsNz ra) s = .next (finish (setT s (decide (a.val ≠ 0)))) ∧
      ∀ b, readF s rb = some b →
        (s.arg.toNat % 2 = 1 →
          exec (.feCswap ra rb) s = .next (finish (putF (putF s ra (some b)) rb (some a)))) ∧
        (s.arg.toNat % 2 = 0 → exec (.feCswap ra rb) s = .next (finish s))) ∧
    (readF s ra = none →
      exec (.feIsNeg ra) s = .next (takeError s .empty) ∧ exec (.feIsNz ra) s = .next (takeError s .empty)) ∧
    (readF s ra = none ∨ readF s rb = none → exec (.feCswap ra rb) s = .next (takeError s .empty))

/-- R181, R182, R183: `SC_REDUCE` writes the 512-bit integer mod ℓ to `B[2·rd]` only; `SC_MULADD` writes
(a·b + c) mod ℓ of full 256-bit operands; `SC_CHECK_LT_L` compares with ℓ. -/
def Obligations.ScalarCommands : Prop :=
  ∀ (s : State) (rd ra rb rc : Reg),
    (rd.toNat < 8 → ∃ (x : Bytes32) (lo hi : Reg), lo.toNat = 2 * rd.toNat ∧ hi.toNat = 2 * rd.toNat + 1 ∧
      x.toNat = ((readB s lo).toNat + 2 ^ 256 * (readB s hi).toNat) % groupOrder ∧
      exec (.scReduce rd) s = .next (finish (writeB s lo x))) ∧
    (8 ≤ rd.toNat → exec (.scReduce rd) s = .next (takeError s .illegal)) ∧
    (∃ x : Bytes32, x.toNat = ((readB s ra).toNat * (readB s rb).toNat + (readB s rc).toNat) % groupOrder ∧
      exec (.scMuladd rd ra rb rc) s = .next (finish (writeB s rd x))) ∧
    exec (.scCheckLtL ra) s = .next (finish (setT s (decide ((readB s ra).toNat < groupOrder))))

/-- R196 to R200: the neutral element and the four conversions, with `ERR_EMPTY` for an Empty source (the wrong
variants are `WrongVariantRaisesTag`). -/
def Obligations.PointConversions : Prop :=
  ∀ (s : State) (rd ra : Reg), rd.toNat < 8 →
    exec (.geIdent rd) s = .next (finish (putG s rd (some (.p3 ⟨0, 1, 1, 0⟩)))) ∧
    (ra.toNat < 8 →
      (∀ v : P3, readG s ra = some (.p3 v) →
        exec (.geP3ToCached rd ra) s =
          .next (finish (putG s rd (some (.cached ⟨v.y + v.x, v.y - v.x, v.z, constD2 * v.t⟩)))) ∧
        exec (.geP3ToP2 rd ra) s = .next (finish (putG s rd (some (.p2 ⟨v.x, v.y, v.z⟩))))) ∧
      (∀ v : P1P1, readG s ra = some (.p1p1 v) →
        exec (.geP1p1ToP2 rd ra) s = .next (finish (putG s rd (some (.p2 ⟨v.x * v.t, v.y * v.z, v.z * v.t⟩)))) ∧
        exec (.geP1p1ToP3 rd ra) s =
          .next (finish (putG s rd (some (.p3 ⟨v.x * v.t, v.y * v.z, v.z * v.t, v.x * v.y⟩))))) ∧
      (readG s ra = none →
        exec (.geP3ToCached rd ra) s = .next (takeError s .empty) ∧
        exec (.geP3ToP2 rd ra) s = .next (takeError s .empty) ∧
        exec (.geP1p1ToP2 rd ra) s = .next (takeError s .empty) ∧
        exec (.geP1p1ToP3 rd ra) s = .next (takeError s .empty)))

/-- R201 to R205 (and R204, R209, which the spec derives from them): the addition, subtraction and doubling formulas, with D = 2·(Z1·Z2) and X3 = 2·X·Y. -/
def Obligations.PointAdditionsAndDoublings : Prop :=
  ∀ (s : State) (rd ra rb : Reg), rd.toNat < 8 → ra.toNat < 8 →
    (∀ u : P3, readG s ra = some (.p3 u) → rb.toNat < 8 →
      (∀ v : Cached, readG s rb = some (.cached v) →
        exec (.geAdd rd ra rb) s =
          .next (finish (putG s rd (some (.p1p1
            ⟨(u.y + u.x) * v.yPlusX - (u.y - u.x) * v.yMinusX, (u.y + u.x) * v.yPlusX + (u.y - u.x) * v.yMinusX,
              2 * (u.z * v.z) + v.t2d * u.t, 2 * (u.z * v.z) - v.t2d * u.t⟩)))) ∧
        exec (.geSub rd ra rb) s =
          .next (finish (putG s rd (some (.p1p1
            ⟨(u.y + u.x) * v.yMinusX - (u.y - u.x) * v.yPlusX, (u.y + u.x) * v.yMinusX + (u.y - u.x) * v.yPlusX,
              2 * (u.z * v.z) - v.t2d * u.t, 2 * (u.z * v.z) + v.t2d * u.t⟩))))) ∧
      (∀ v : Precomp, readG s rb = some (.precomp v) →
        exec (.geMadd rd ra rb) s =
          .next (finish (putG s rd (some (.p1p1
            ⟨(u.y + u.x) * v.yPlusX - (u.y - u.x) * v.yMinusX, (u.y + u.x) * v.yPlusX + (u.y - u.x) * v.yMinusX,
              2 * u.z + v.xy2d * u.t, 2 * u.z - v.xy2d * u.t⟩)))) ∧
        exec (.geMsub rd ra rb) s =
          .next (finish (putG s rd (some (.p1p1
            ⟨(u.y + u.x) * v.yMinusX - (u.y - u.x) * v.yPlusX, (u.y + u.x) * v.yMinusX + (u.y - u.x) * v.yPlusX,
              2 * u.z - v.xy2d * u.t, 2 * u.z + v.xy2d * u.t⟩)))))) ∧
    (∀ v : P2, readG s ra = some (.p2 v) →
      exec (.geP2Dbl rd ra) s =
        .next (finish (putG s rd (some (.p1p1
          ⟨2 * v.x * v.y, v.y * v.y + v.x * v.x, v.y * v.y - v.x * v.x,
            2 * (v.z * v.z) - (v.y * v.y - v.x * v.x)⟩))))) ∧
    (∀ v : P3, readG s ra = some (.p3 v) →
      exec (.geP3Dbl rd ra) s =
        .next (finish (putG s rd (some (.p1p1
          ⟨2 * v.x * v.y, v.y * v.y + v.x * v.x, v.y * v.y - v.x * v.x,
            2 * (v.z * v.z) - (v.y * v.y - v.x * v.x)⟩)))))

/-- R206: `GE_ENCODE` of P2 or P3 writes the 255 bits of the affine y and the parity of the affine x as bit 255,
the affine coordinates being X·Z^(p−2) and Y·Z^(p−2); the result does not change when X, Y, Z are scaled by a
common nonzero factor. -/
def Obligations.EncodeCommand : Prop :=
  (∀ (s : State) (rd ra : Reg) (x y z : Fe), ra.toNat < 8 →
    readG s ra = some (.p2 ⟨x, y, z⟩) ∨ (∃ t, readG s ra = some (.p3 ⟨x, y, z, t⟩)) →
    ∃ e : Bytes32, exec (.geEncode rd ra) s = .next (finish (writeB s rd e)) ∧
      e.toNat = y.val * z.val ^ (2 ^ 255 - 21) % prime25519 +
        2 ^ 255 * (x.val * z.val ^ (2 ^ 255 - 21) % prime25519 % 2)) ∧
  (∀ (s : State) (rd ra : Reg), ra.toNat < 8 → readG s ra = none →
    exec (.geEncode rd ra) s = .next (takeError s .empty)) ∧
  ∀ x y z k : Fe, k ≠ 0 → encodePoint ⟨k * x, k * y, k * z⟩ = encodePoint ⟨x, y, z⟩

/-- R207, R208: a decode writes the point and `T` = 1, or Empty and `T` = 0; it is no error either way; the negated
decode writes the negative of the same point. -/
def Obligations.DecodeCommands : Prop :=
  ∀ (s : State) (rd ra : Reg), rd.toNat < 8 →
    (decodePoint (readB s ra) = none →
      exec (.geDecode rd ra) s = .next (finish (setT (putG s rd none) false)) ∧
      exec (.geDecodeNeg rd ra) s = .next (finish (setT (putG s rd none) false))) ∧
    (∀ v : P3, decodePoint (readB s ra) = some v →
      exec (.geDecode rd ra) s = .next (finish (setT (putG s rd (some (.p3 v))) true)) ∧
      exec (.geDecodeNeg rd ra) s = .next (finish (setT (putG s rd (some (.p3 ⟨-v.x, v.y, v.z, -v.t⟩))) true)))

/-- R212: `decode(s)` finds a point exactly when some x makes (x, y) a point of the curve, y being the low 255
bits mod p; what it finds is that point in extended coordinates with Z = 1 and T = x·y, x having the parity of
bit 255 unless x = 0. -/
def Obligations.DecodeFindsExactlyThePoints : Prop :=
  ∀ e : Bytes32,
    (∀ v : P3, decodePoint e = some v →
      v.y.val = e.toNat % 2 ^ 255 % prime25519 ∧ v.z = 1 ∧ v.t = v.x * v.y ∧ onCurve ⟨v.x, v.y⟩ ∧
        (v.x ≠ 0 → v.x.val % 2 = e.toNat / 2 ^ 255)) ∧
    (decodePoint e = none ↔ ∀ x : Fe, ¬ onCurve ⟨x, feDec e⟩)

/-- R223, R224, R225: `GE_SELECT` gives the neutral entry for digit 0, the table entry for a digit k of 1 to 8, its
negative for −k (the digit is bits 15:8 of `ARG` in two's complement); `GE_LOAD_BI` gives `BI[ARG]`. -/
def Obligations.TableCommands : Prop :=
  ∀ (s : State) (rd : Reg), rd.toNat < 8 →
    (∀ pos k : Nat, pos < 32 → k < 9 →
      (s.arg.toNat = pos + 256 * k →
        exec (.geSelect rd) s = .next (finish (putG s rd (some (.precomp
          (if k = 0 then ⟨1, 1, 0⟩ else baseEntry pos (k - 1))))))) ∧
      (k ≠ 0 → s.arg.toNat = pos + 256 * (256 - k) →
        exec (.geSelect rd) s = .next (finish (putG s rd (some (.precomp
          ⟨(baseEntry pos (k - 1)).yMinusX, (baseEntry pos (k - 1)).yPlusX, -(baseEntry pos (k - 1)).xy2d⟩)))))) ∧
    (s.arg.toNat ≤ 7 →
      exec (.geLoadBi rd) s = .next (finish (putG s rd (some (.precomp (biEntry s.arg.toNat))))))

/-- R220, R221: the table entries are the Precomp forms of the multiples of B that the two laws name, by the group
law of R195: `BI` and row 0 of `BASE` by repeated addition of B; every row of `BASE` from its first entry; and the
first entry of a row as 32 times the last of the row before (32 · 8 · 256^pos = 256^(pos+1)), by five doublings. -/
def Obligations.TableEntriesAreMultiples : Prop :=
  (∀ j, j < 8 → biEntry j = precompOf (affineMul basePoint (2 * j + 1)) ∧
    baseEntry 0 j = precompOf (affineMul basePoint (j + 1))) ∧
  ∃ q : Nat → Nat → Affine,
    (∀ pos j, pos < 32 → j < 8 → onCurve (q pos j) ∧ baseEntry pos j = precompOf (q pos j)) ∧
    (∀ pos j, pos < 32 → j < 7 → affineSum (q pos j) (q pos 0) (q pos (j + 1))) ∧
    ∀ pos, pos < 31 → ∃ d1 d2 d3 d4 : Affine, affineSum (q pos 7) (q pos 7) d1 ∧ affineSum d1 d1 d2 ∧
      affineSum d2 d2 d3 ∧ affineSum d3 d3 d4 ∧ affineSum d4 d4 (q (pos + 1) 0)

/-- R226, R227, R229: the two scalar multiplications complete with the P3 and the P2 value of `scalarmultBase` and
`doubleScalarmult`, `ERR_EMPTY` for an Empty point; and these values stand, with Z ≠ 0, for the multiples the rules
name: (Σ e[i]·16^i over i < 63, + c·16^63)·B with c = e[63] if that is at most 8 and 0 otherwise, e the digits of
RECODE16; and a'·A + b'·B with a' and b' the digit sums of slide, for every P3 value that stands for a point A of the
curve. Multiples and sums are those of the law of R195. -/
def Obligations.ScalarMultCommands : Prop :=
  (∀ (s : State) (rd ra rb rc : Reg), rd.toNat < 8 →
    exec (.geScalarmultBase rd ra) s = .next (finish (putG s rd (some (.p3 (scalarmultBase (readB s ra)))))) ∧
    (rb.toNat < 8 →
      (∀ v : P3, readG s rb = some (.p3 v) →
        exec (.geDoubleScalarmultVt rd ra rb rc) s =
          .next (finish (putG s rd (some (.p2 (doubleScalarmult (readB s ra) v (readB s rc))))))) ∧
      (readG s rb = none → exec (.geDoubleScalarmultVt rd ra rb rc) s = .next (takeError s .empty)))) ∧
  (∀ a : Bytes32, p3Represents (scalarmultBase a) (affineMulInt basePoint (baseMultiple a))) ∧
  ∀ (a b : Bytes32) (v : P3) (q : Affine), onCurve q → p3Represents v q →
    p2Represents (doubleScalarmult a v b)
      (affineAdd (affineMulInt q (slideSum a)) (affineMulInt basePoint (slideSum b)))

/-- R222: `RECODE16` gives 64 digits whose radix-16 sum is the scalar, digits 0 to 62 in −8..7, digit 63 in 0..8 for
a scalar below 2^255 and in 0..16 otherwise. -/
def Obligations.RecodeDigits : Prop :=
  ∀ a : Bytes32, (recode16 a).length = 64 ∧
    ((List.range 64).map fun i => (recode16 a).getD i 0 * 16 ^ i).sum = (a.toNat : Int) ∧
    (∀ i, i < 63 → -8 ≤ (recode16 a).getD i 0 ∧ (recode16 a).getD i 0 ≤ 7) ∧
    0 ≤ (recode16 a).getD 63 0 ∧ (recode16 a).getD 63 0 ≤ 16 ∧
    (a.toNat < 2 ^ 255 → (recode16 a).getD 63 0 ≤ 8)

/-- R228 (the properties the spec infers from its pseudocode): `slide` gives 256 digits, each 0 or odd in −15..15, whose binary sum is the scalar when it is below 2^255,
and otherwise the scalar or the scalar minus 2^256. -/
def Obligations.SlideDigits : Prop :=
  ∀ a : Bytes32, (slide a).length = 256 ∧
    (∀ d ∈ slide a, d = 0 ∨ (d % 2 = 1 ∧ -15 ≤ d ∧ d ≤ 15)) ∧
    (((List.range 256).map fun i => (slide a).getD i 0 * 2 ^ i).sum = (a.toNat : Int) ∨
      (2 ^ 255 ≤ a.toNat ∧
        ((List.range 256).map fun i => (slide a).getD i 0 * 2 ^ i).sum = (a.toNat : Int) - 2 ^ 256))

/-- R241, R242, R243: the two X25519 commands write the ladder's result to `B[rd]`, the base form for u = 9; and the
ladder's result is what R241 says: from (x2, z2) = (1, 0) and (x3, z3) = (u, 1), u without its bit 255 and modulo p,
255 iterations for the bits 254 down to 0 of the clamped scalar, each a swap by the XOR of the bit and the one before
it and then the formulas of one step; after the last the swap by bit 0, and x2 · z2^(p−2) modulo p. -/
def Obligations.X25519Commands : Prop :=
  (∀ (s : State) (rd ra rb : Reg),
    exec (.x25519 rd ra rb) s = .next (finish (writeB s rd (ladder (readB s ra) (readB s rb)))) ∧
    exec (.x25519Base rd ra) s = .next (finish (writeB s rd (ladder (readB s ra) 9#256)))) ∧
  ∀ n u : Bytes32, ∃ (x1 : Fe) (v : Nat → LadderPairs) (w : LadderPairs),
    x1.val = u.toNat % 2 ^ 255 % prime25519 ∧ ladderRun n x1 v ∧ w = (v 255).swapped (clampedBit n 0) ∧
      (ladder n u).toNat = w.x2.val * w.z2.val ^ (2 ^ 255 - 21) % prime25519

/-- R241, R242 (and the spec's inference R244 (c)): the ladder's result is below p; bits 0, 1, 2, 254, 255 of the scalar and bit 255 of u do
not matter; u and its canonical encoding give the same; u = 0 gives 32 zero bytes for every scalar. -/
def Obligations.LadderInputsAndOutput : Prop :=
  ∀ n u : Bytes32,
    (ladder n u).toNat < prime25519 ∧
    (∀ n' : Bytes32, (∀ j, 3 ≤ j → j < 254 → n.getLsbD j = n'.getLsbD j) → ladder n u = ladder n' u) ∧
    (∀ u' : Bytes32, u.toNat % 2 ^ 255 % prime25519 = u'.toNat % 2 ^ 255 % prime25519 → ladder n u = ladder n u') ∧
    ladder n 0#256 = 0#256

/-- R250, R251: the expanded secret's first half is a clamped scalar, its second half is the hash's. -/
def Obligations.ExpandedSecretIsClamped : Prop :=
  ∀ seed : Bytes32,
    2 ^ 254 ≤ (firstHalf (edExpand seed)).toNat ∧ (firstHalf (edExpand seed)).toNat < 2 ^ 255 ∧
    (firstHalf (edExpand seed)).toNat % 8 = 0 ∧
    secondHalf (edExpand seed) = secondHalf (sha512 (bytesOf 32 seed)) ∧
    ∀ j, 3 ≤ j → j < 254 → (edExpand seed).getLsbD j = (sha512 (bytesOf 32 seed)).getLsbD j

/-- R252, R253: `ED_FROM_SEED` writes the expanded secret of the seed and the encoding of a·B for its clamped
scalar a; `ED_FROM` writes the expanded secret of the key string's first half and copies its second half. -/
def Obligations.KeyCommands : Prop :=
  ∀ (s : State) (rd ra rb : Reg), rd.toNat < 8 → ra.toNat ≠ 2 * rd.toNat → ra.toNat ≠ 2 * rd.toNat + 1 →
    exec (.edFromSeed rd ra rb) s =
      .next (finish (writeB (writeW s rd (edExpand (readB s rb))) ra
        (encodePoint (p3ToP2 (scalarmultBase (firstHalf (edExpand (readB s rb)))))))) ∧
    (rb.toNat < 8 →
      exec (.edFrom rd ra rb) s =
        .next (finish (writeB (writeW s rd (edExpand (firstHalf (readW s rb)))) ra (secondHalf (readW s rb)))))

/-- R254, R273, R274, R287: `ED_GENERATE` makes one draw; with the port's 32 bytes it does what `ED_FROM_SEED` does
with that seed, and on failure it raises `ERR_INVALID_KEY` and changes no register. The draw is a free value (log
entry 3): the statement holds whatever it is. -/
def Obligations.GenerateCommand : Prop :=
  ∀ (s : State) (rd ra : Reg), rd.toNat < 8 → ra.toNat ≠ 2 * rd.toNat → ra.toNat ≠ 2 * rd.toNat + 1 →
    (∀ seed : Bytes32, nextDraw s = some seed →
      exec (.edGenerate rd ra) s =
        .next (finish (writeB (writeW (takeDraw s) rd (edExpand seed)) ra
          (encodePoint (p3ToP2 (scalarmultBase (firstHalf (edExpand seed)))))))) ∧
    (nextDraw s = none → exec (.edGenerate rd ra) s = .next (takeError (takeDraw s) .invalidKey))

/-- R255, R256, R257, R275, R286: signing writes R ‖ S; verifying sets `T` exactly when S < ℓ, the key is not zero,
it decodes, and k·(−A) + S·B encodes to the R half, and writes nothing else, whatever the cause of a rejection;
`MSGLEN` above 4096 raises `ERR_MSGLEN`, 4096 and 0 do not. -/
def Obligations.SignAndVerify : Prop :=
  ∀ (s : State) (rd ra rb : Reg), rd.toNat < 8 →
    (s.msglen.toNat ≤ 4096 →
      (ra.toNat < 8 → ∃ r k sig : Bytes32,
        r = scReduce (sha512 (bytesOf 32 (secondHalf (readW s ra)) ++ memFirst s.msg s.msglen.toNat)) ∧
        k = scReduce (sha512 (bytesOf 32 (encodePoint (p3ToP2 (scalarmultBase r))) ++ bytesOf 32 (readB s rb) ++
          memFirst s.msg s.msglen.toNat)) ∧
        sig.toNat = (k.toNat * (firstHalf (readW s ra)).toNat + r.toNat) % groupOrder ∧
        exec (.edSign rd ra rb) s =
          .next (finish (writeW s rd (joinHalves (encodePoint (p3ToP2 (scalarmultBase r))) sig)))) ∧
      (rb.toNat < 8 → ∃ accept : Bool, exec (.edVerify ra rb) s = .next (finish (setT s accept)) ∧
        (accept = true ↔
          (secondHalf (readW s rb)).toNat < groupOrder ∧ readB s ra ≠ 0#256 ∧
          ∃ v : P3, decodePoint (readB s ra) = some v ∧
            encodePoint (doubleScalarmult
              (scReduce (sha512 (bytesOf 32 (firstHalf (readW s rb)) ++ bytesOf 32 (readB s ra) ++
                memFirst s.msg s.msglen.toNat)))
              ⟨-v.x, v.y, v.z, -v.t⟩ (secondHalf (readW s rb))) = firstHalf (readW s rb)))) ∧
    (4096 < s.msglen.toNat →
      (ra.toNat < 8 → exec (.edSign rd ra rb) s = .next (takeError s .msglen)) ∧
      (rb.toNat < 8 → exec (.edVerify ra rb) s = .next (takeError s .msglen)))

/-! ## Laws of the arithmetic -/

/-- R272, by the six check values the spec computes from it in R276: the digests of the hash port's
function (R271), first byte first; the fourth and fifth are the longest message of one block and the shortest of
two, the last the longest input the engine presents. -/
def Obligations.HashPortCheckValues : Prop :=
  sha512 ([]) = BitVec.ofNat 512 (intLe (beBytes 64
    0xcf83e1357eefb8bdf1542850d66d8007d620e4050b5715dc83f4a921d36ce9ce47d0d13c5d85f2b0ff8318d2877eec2f63b931bd47417a81a538327af927da3e)) ∧
  sha512 ([0x61#8, 0x62#8, 0x63#8]) = BitVec.ofNat 512 (intLe (beBytes 64
    0xddaf35a193617abacc417349ae20413112e6fa4e89a97ea20a9eeee64b55d39a2192992a274fc1a836ba3c23a3feebbd454d4423643ce80e2a9ac94fa54ca49f)) ∧
  sha512 (List.replicate 32 0#8) = BitVec.ofNat 512 (intLe (beBytes 64
    0x5046adc1dba838867b2bbbfdd0c3423e58b57970b5267a90f57960924a87f1960a6a85eaa642dac835424b5d7c8d637c00408c7a73da672b7f498521420b6dd3)) ∧
  sha512 (List.replicate 111 0x61#8) = BitVec.ofNat 512 (intLe (beBytes 64
    0xfa9121c7b32b9e01733d034cfc78cbf67f926c7ed83e82200ef86818196921760b4beff48404df811b953828274461673c68d04e297b0eb7b2b4d60fc6b566a2)) ∧
  sha512 (List.replicate 112 0x61#8) = BitVec.ofNat 512 (intLe (beBytes 64
    0xc01d080efd492776a1c43bd23dd99d0a2e626d481e16782e75d54c2503b5dc32bd05f0f1ba33e568b88fd2d970929b719ecbb152f58f130a407c8830604b70ca)) ∧
  sha512 (((List.range 4096).map fun i => BitVec.ofNat 8 (i % 256)) ++ List.replicate 64 0#8) = BitVec.ofNat 512 (intLe (beBytes 64
    0x68b47a5ce269149a6ad65def1fc6a950b0218c24fc1bf5444a19d0bbb9e209b1661fe0044add2868039cc307fad63fb03885c93acd46e1d04689090e901630e2))

/-- R4: the constants meet their defining properties: d·121666 = −121665, 2d, SQRTM1 = 2^((p−1)/4) mod p (the base 2
under a name, so that nothing evaluates the power) with its square p − 1, B on the curve with y = 4/5 and x even,
ℓ's digits, that ℓ is prime and ℓ·B, as `GE_SCALARMULT_BASE` computes it, encodes as the neutral element (R226), and
the two exponents (p−5)/8 = 2^252 − 3 and p − 2 = 2^255 − 21. -/
def Obligations.ConstantsMeetTheirDefinitions : Prop :=
  prime25519 = 2 ^ 255 - 19 ∧ constD.val * 121666 % prime25519 = prime25519 - 121665 ∧
    constD2.val = 2 * constD.val % prime25519 ∧ constSqrtM1.val ^ 2 % prime25519 = prime25519 - 1 ∧
    (∀ two : Nat, two = 2 → constSqrtM1.val = two ^ ((prime25519 - 1) / 4) % prime25519) ∧
    onCurve basePoint ∧ 5 * basePoint.y.val % prime25519 = 4 ∧ basePoint.x.val % 2 = 0 ∧
    groupOrder = 2 ^ 252 + 27742317777372353535851937790883648493 ∧ groupOrder.Prime ∧
    encodePoint (p3ToP2 (scalarmultBase (BitVec.ofNat 256 groupOrder))) = 1#256 ∧
    (prime25519 - 5) / 8 = 2 ^ 252 - 3 ∧ prime25519 - 2 = 2 ^ 255 - 21

/-- R134, R135 (the round trip the spec infers in R152): loading a string and storing the value gives the same string exactly when its integer is below p; for the
19 strings from p to 2^255 − 1 it gives the integer minus p; a set bit 255 makes no difference. -/
def Obligations.FieldRoundTrip : Prop :=
  ∀ (s t : State) (rf ra rb : Reg), exec (.feFromBytes rf ra) s = .next t →
    ∃ u, exec (.feToBytes rb rf) t = .next u ∧
      (readB u rb = readB s ra ↔ (readB s ra).toNat < prime25519) ∧
      (prime25519 ≤ (readB s ra).toNat → (readB s ra).toNat < 2 ^ 255 →
        (readB u rb).toNat = (readB s ra).toNat - prime25519) ∧
      (2 ^ 255 ≤ (readB s ra).toNat →
        (readB u rb).toNat = ((readB s ra).toNat - 2 ^ 255) % prime25519)

/-- R181 (the spec's inference R185): `SC_REDUCE` of a view whose low half is below ℓ and whose high half is 0 changes no register. -/
def Obligations.ScReduceIdempotent : Prop :=
  ∀ (s : State) (rd : Reg), rd.toNat < 8 → (readW s rd).toNat < groupOrder →
    ∃ t, exec (.scReduce rd) s = .next t ∧ ∀ r, readB t r = readB s r

/-- R195 (and the spec's inference R211): the addition law of affine points is complete: no denominator vanishes, the quotients satisfy the
law, and the sum is on the curve. -/
def Obligations.AffineLawIsComplete : Prop :=
  ∀ a b : Affine, onCurve a → onCurve b →
    1 + constD * a.x * b.x * a.y * b.y ≠ 0 ∧ 1 - constD * a.x * b.x * a.y * b.y ≠ 0 ∧
      affineSum a b (affineAdd a b) ∧ onCurve (affineAdd a b)

/-- R190 to R193 and R199 to R205: the result of each addition, subtraction and doubling stands for the sum,
difference or double of the points its operands stand for, and the conversions keep the point. For operands that
represent points of the curve, with the denominators of R190 to R193 not zero, the result's denominators are not
zero either (of a P1P1 value Z and T), and the sum is the one the law of R195 gives. -/
def Obligations.FormulasStandForTheGroupLaw : Prop :=
  (∀ (u : P3) (v : Cached) (a b c : Affine), p3Stands u a → cachedStands v b →
    (affineSum a b c → p1p1Stands (geAdd u v) c) ∧ (affineSum a (affineNeg b) c → p1p1Stands (geSub u v) c)) ∧
  (∀ (u : P3) (a b c : Affine), p3Stands u a →
    (affineSum a b c → p1p1Stands (geMadd u (precompOf b)) c) ∧
    (affineSum a (affineNeg b) c → p1p1Stands (geMsub u (precompOf b)) c)) ∧
  (∀ (v : P2) (w : P3) (a c : Affine), onCurve a → affineSum a a c →
    (p2Stands v a → p1p1Stands (p2Dbl v) c) ∧ (p3Stands w a → p1p1Stands (p3Dbl w) c)) ∧
  (∀ (v : P1P1) (a : Affine), p1p1Stands v a → p2Stands (p1p1ToP2 v) a ∧ p3Stands (p1p1ToP3 v) a) ∧
  (∀ (v : P3) (a : Affine), p3Stands v a → p2Stands (p3ToP2 v) a ∧ cachedStands (p3ToCached v) a) ∧
  (∀ (u : P3) (v : Cached) (a b : Affine), onCurve a → onCurve b → p3Represents u a →
    (cachedRepresents v b → p1p1Represents (geAdd u v) (affineAdd a b) ∧
      p1p1Represents (geSub u v) (affineAdd a (affineNeg b))) ∧
    p1p1Represents (geMadd u (precompOf b)) (affineAdd a b) ∧
    p1p1Represents (geMsub u (precompOf b)) (affineAdd a (affineNeg b)) ∧
    p1p1Represents (p3Dbl u) (affineAdd a a) ∧ p2Represents (p3ToP2 u) a ∧ cachedRepresents (p3ToCached u) a) ∧
  (∀ (v : P2) (a : Affine), onCurve a → p2Represents v a → p1p1Represents (p2Dbl v) (affineAdd a a)) ∧
  (∀ (v : P1P1) (a : Affine), p1p1Represents v a →
    p2Represents (p1p1ToP2 v) a ∧ p3Represents (p1p1ToP3 v) a)

/-- R150, R151: the two reference chains compute z^(p−2) and z^((p−5)/8). -/
def Obligations.ChainsComputeThePowers : Prop :=
  ∀ z : Fe, (invertChain (· * ·) z).val = z.val ^ (2 ^ 255 - 21) % prime25519 ∧
    (pow2523Chain (· * ·) z).val = z.val ^ (2 ^ 252 - 3) % prime25519

/-! ## Invariants -/

/-- The invariant that R211 infers from R190 to R209: every non-Empty point register holds a valid point with denominators that are not zero, and every step
keeps it so: commands, host accesses and resets. -/
def Obligations.ValidPointsAreKept : Prop :=
  ∀ s t : State, pointsInv s → step s = .next t → pointsInv t

/-- R281, R282, R295, R296: every step keeps ERR and `ERRCODE` in agreement and ERR and DONE clear while BUSY. The third
clause is the model's choice, not the spec's: the list that holds the message RAM keeps the canonical form of log
entry 8, within the 4096 bytes of R37. -/
def Obligations.ControlStateIsKept : Prop :=
  ∀ s t : State, controlInv s → step s = .next t → controlInv t

/-- The two invariants hold of the state after reset (R42, R310). -/
def Obligations.InvariantsHoldAtReset : Prop := pointsInv State.reset ∧ controlInv State.reset

/-! ## The limb datapath (log entry 9: hidden state, spoken of by functions only) -/

/-- R160, R163, R164, R166 to R171: each limb operation has as its value the field operation's result. -/
def Obligations.LimbOperationsRefine : Prop :=
  (∀ h, limbsVal (carryChain h) = limbsVal h) ∧ limbsVal limbsZero = 0 ∧ limbsVal limbsOne = 1 ∧
  (∀ b : Bytes32, limbsVal (limbsFromBytes b) = feDec b) ∧
  (∀ f g, limbsVal (limbsAdd f g) = limbsVal f + limbsVal g ∧ limbsVal (limbsSub f g) = limbsVal f - limbsVal g ∧
    limbsVal (limbsNegate f) = -limbsVal f ∧ limbsVal (limbsMul f g) = limbsVal f * limbsVal g ∧
    limbsVal (limbsSquare f) = feSquare (limbsVal f) ∧
    limbsVal (limbsSquareDouble f) = feSquareDouble (limbsVal f)) ∧
  (∀ f k, limbsVal (limbsMulSmall f k) = feMulSmall (limbsVal f) k) ∧
  (∀ f, limbsVal (limbsInvert f) = feInvert (limbsVal f) ∧ limbsVal (limbsPow2523 f) = fePow2523 (limbsVal f)) ∧
  (∀ bit f g, tight f → tight g → limbsCswap bit f g = if bit then (g, f) else (f, g))

/-- R161, R162, R163, R166, R169 and the bounds the spec derives in R172. From tight inputs every operation gives a
tight output. Tight limbs fit 32 bits; a product of two is below 2^50.03, a term with its factors 2 and 19 below
2^55.28, an accumulator after any number of its terms below 2^58.61, doubled below 2^59.61, a term of `mul_small` by
an unsigned 32-bit constant below 2^57.02 (R169: 1.01 · 2^57), a sum or difference of `add` and `sub` below 2.02 · 2^25, the rounding constants below
2^26. So what enters a carry chain is below 2^60, and from such an input every value the chain's twelve steps form
is in the signed 64-bit range. -/
def Obligations.LimbBoundsHold : Prop :=
  tight limbsZero ∧ tight limbsOne ∧
  (∀ b : Bytes32, tight (limbsFromBytes b) ∧ ∀ i, i < 10 → |limbAt (limbsCut b) i| < 2 ^ 60) ∧
  (∀ i, i < 10 → (2 : Int) ^ (limbWidth i - 1) < 2 ^ 26) ∧
  (∀ h, (∀ i, i < 10 → |limbAt h i| < 2 ^ 60) → ∀ v ∈ carryValues carryOrder h, fits64 v) ∧
  ∀ f g, tight f → tight g →
    (∀ i j, i < 10 → j < 10 →
      |limbAt f i| < 2 ^ 31 ∧ belowPow2 (limbAt f i * limbAt g j) 5003 ∧ belowPow2 (mulTerm f g i j) 5528) ∧
    (∀ k m, k < 10 → m ≤ 10 → belowPow2 (mulPartial f g k m) 5861 ∧ |mulPartial f g k m| < 2 ^ 60) ∧
    (∀ k, k < 10 → belowPow2 (2 * mulAcc f g k) 5961 ∧ |2 * mulAcc f g k| < 2 ^ 60) ∧
    (∀ i k : Nat, i < 10 → k < 2 ^ 32 → belowPow2 (limbAt f i * (k : Int)) 5702 ∧
      100 * |limbAt f i * (k : Int)| < 101 * 2 ^ 57) ∧
    (∀ i, i < 10 → 100 * |limbAt f i + limbAt g i| < 202 * 2 ^ 25 ∧ 100 * |limbAt f i - limbAt g i| < 202 * 2 ^ 25) ∧
    tight (limbsAdd f g) ∧ tight (limbsSub f g) ∧ tight (limbsNegate f) ∧ tight (limbsMul f g) ∧
    tight (limbsSquare f) ∧ tight (limbsSquareDouble f) ∧ (∀ k, k < 2 ^ 32 → tight (limbsMulSmall f k)) ∧
    tight (limbsInvert f) ∧ tight (limbsPow2523 f) ∧
    ∀ bit, tight (limbsCswap bit f g).1 ∧ tight (limbsCswap bit f g).2

/-- R165: the full reduction of a tight pattern gives the canonical bytes of its value. -/
def Obligations.LimbToBytesIsCanonical : Prop := ∀ h, tight h → limbsToBytes h = feEnc (limbsVal h)
end

