-- ==== Sys2Proof/Laws/Bits.lean ====
section
/-! SUPPORT. Byte strings bit by bit: what replacing a byte or a word of one changes, and what clamping does
(R10, R17, R63).
-/
namespace Sys2Proof.Machine

theorem byteAt_getLsbD {w : Nat} (s : BitVec w) (i j : Nat) (hj : j < 8) :
    (byteAt s i).getLsbD j = s.getLsbD (8 * i + j) := by
  simp [byteAt, hj]

/-- Bit `j` of a byte string with byte `i` replaced (R10). -/
theorem setByte_getLsbD {w : Nat} (s : BitVec w) (i : Nat) (v : Byte) (j : Nat) (hj : j < w) :
    (setByte s i v).getLsbD j =
      if 8 * i ≤ j ∧ j < 8 * i + 8 then v.getLsbD (j - 8 * i) else s.getLsbD j := by
  simp only [setByte, BitVec.getLsbD_or, BitVec.getLsbD_and, BitVec.getLsbD_not, BitVec.getLsbD_shiftLeft,
    BitVec.getLsbD_setWidth, hj, decide_true, Bool.true_and]
  have hff : ∀ k, (0xff#8).getLsbD k = decide (k < 8) := by
    intro k
    by_cases hk : k < 8
    · have : ∀ k : Fin 8, (0xff#8).getLsbD k.val = true := by decide
      simpa [hk] using this ⟨k, hk⟩
    · simp only [hk, decide_false]; exact BitVec.getLsbD_of_ge _ _ (by omega)
  rw [hff]
  by_cases h1 : 8 * i ≤ j
  · by_cases h2 : j < 8 * i + 8
    · simp [h1, h2, show ¬ j < 8 * i by omega, show j - 8 * i < w by omega, show j - 8 * i < 8 by omega]
    · have hv : v.getLsbD (j - 8 * i) = false := BitVec.getLsbD_of_ge _ _ (by omega)
      simp [h1, h2, show ¬ j < 8 * i by omega, show ¬ j - 8 * i < 8 by omega, hv]
  · simp [h1, show j < 8 * i by omega]

/-- The replaced byte reads back, every other byte as before (R10). -/
theorem byteAt_setByte {w : Nat} (s : BitVec w) (i k : Nat) (v : Byte) (hi : 8 * i + 8 ≤ w) (hk : 8 * k + 8 ≤ w) :
    byteAt (setByte s i v) k = if k = i then v else byteAt s k := by
  apply BitVec.eq_of_getLsbD_eq; intro j hj
  rw [byteAt_getLsbD _ _ _ hj, setByte_getLsbD _ _ _ _ (by omega)]
  by_cases h : k = i
  · subst h; simp [hj]
  · rw [if_neg (by omega), if_neg h, byteAt_getLsbD _ _ _ hj]

/-- Bit `j` of a register with word `m` replaced (R63). -/
theorem setWord_getLsbD (s : Bytes32) (m : Nat) (v : Word) (j : Nat) (hj : j < 256) :
    (setWord s m v).getLsbD j =
      if 32 * m ≤ j ∧ j < 32 * m + 32 then v.getLsbD (j - 32 * m) else s.getLsbD j := by
  simp only [setWord, BitVec.getLsbD_or, BitVec.getLsbD_and, BitVec.getLsbD_not, BitVec.getLsbD_shiftLeft,
    BitVec.getLsbD_setWidth, hj, decide_true, Bool.true_and]
  have hff : ∀ k, (0xffffffff#32).getLsbD k = decide (k < 32) := by
    intro k
    by_cases hk : k < 32
    · have : ∀ k : Fin 32, (0xffffffff#32).getLsbD k.val = true := by decide
      simpa [hk] using this ⟨k, hk⟩
    · simp only [hk, decide_false]; exact BitVec.getLsbD_of_ge _ _ (by omega)
  rw [hff]
  by_cases h1 : 32 * m ≤ j
  · by_cases h2 : j < 32 * m + 32
    · simp [h1, h2, show ¬ j < 32 * m by omega, show j - 32 * m < 256 by omega, show j - 32 * m < 32 by omega]
    · have hv : v.getLsbD (j - 32 * m) = false := BitVec.getLsbD_of_ge _ _ (by omega)
      simp [h1, h2, show ¬ j < 32 * m by omega, show ¬ j - 32 * m < 32 by omega, hv]
  · simp [h1, show j < 32 * m by omega]

/-- Bit `j` of a clamped string: bits 0, 1, 2 and 255 cleared, bit 254 set, every other bit kept (R17). -/
theorem clamp_getLsbD {w : Nat} (s : BitVec w) (j : Nat) (hj : j < w) (hw : 256 ≤ w) :
    (clamp s).getLsbD j =
      if j < 3 ∨ j = 255 then false else if j = 254 then true else s.getLsbD j := by
  have bits : ∀ k : Fin 8, (248#8).getLsbD k.val = decide (3 ≤ k.val) ∧ (127#8).getLsbD k.val = decide (k.val < 7) ∧
      (64#8).getLsbD k.val = decide (k.val = 6) := by decide
  simp only [clamp]
  rw [byteAt_setByte s 0 31 _ (by omega) (by omega), if_neg (by decide),
    byteAt_setByte _ 31 31 _ (by omega) (by omega), if_pos rfl, setByte_getLsbD _ _ _ _ hj]
  by_cases h31 : 8 * 31 ≤ j ∧ j < 8 * 31 + 8
  · have hk := bits ⟨j - 8 * 31, by omega⟩
    simp only at hk
    rw [if_pos h31, BitVec.getLsbD_or, BitVec.getLsbD_and, hk.2.1, hk.2.2, byteAt_getLsbD _ _ _ (by omega),
      show 8 * 31 + (j - 8 * 31) = j by omega]
    by_cases h255 : j = 255
    · subst h255; simp
    · by_cases h254 : j = 254
      · subst h254; simp
      · simp [show ¬ j < 3 by omega, h255, h254, show j - 8 * 31 < 7 by omega, show ¬ j - 8 * 31 = 6 by omega]
  · rw [if_neg h31, setByte_getLsbD _ _ _ _ hj, if_neg h31, setByte_getLsbD _ _ _ _ hj]
    by_cases h0 : 8 * 0 ≤ j ∧ j < 8 * 0 + 8
    · have hk := bits ⟨j - 8 * 0, by omega⟩
      simp only at hk
      rw [if_pos h0, BitVec.getLsbD_and, hk.1, byteAt_getLsbD _ _ _ (by omega), show 8 * 0 + (j - 8 * 0) = j by omega]
      by_cases h3 : j < 3
      · simp [h3, show ¬ 3 ≤ j by omega]
      · simp [h3, show 3 ≤ j by omega, show ¬ j = 255 by omega, show ¬ j = 254 by omega]
    · rw [if_neg h0]
      simp [show ¬ j < 3 by omega, show ¬ j = 255 by omega, show ¬ j = 254 by omega]

end Sys2Proof.Machine
end

