-- ==== Sys2Proof/Laws/Checks.lean ====
section
/-! SUPPORT. The facts of R321 and the checks of R99: the facts decide which check fails, so an observer who sees
only the error of a command meets the contract of R321.
-/
namespace Sys2Proof.Machine

/-- The error of a source by its fact. -/
def factError : Source → SourceFact → Option ErrCode
  | _, .empty => some .empty
  | .g _ accepted, .tag v => if v ∈ accepted then none else some .tag
  | _, _ => none

theorem sourceError_eq_factError (s : State) (src : Source) : sourceError s src = factError src (sourceFact s src) := by
  cases src with
  | f r => cases h : readF s r <;> simp [sourceError, sourceFact, factError, h]
  | g r accepted => cases h : readG s r <;> simp [sourceError, sourceFact, factError, h]

/-- Which check fails depends on the facts alone (R99, R320). -/
theorem firstError_eq_of_checkFacts {i : Instr} {s t : State} (h : checkFacts i s = checkFacts i t) :
    firstError s i = firstError t i := by
  simp only [checkFacts, CheckFacts.mk.injEq, true_and] at h
  obtain ⟨hs, ho, hm, he⟩ := h
  have hsrc : (sourcesOf i).findSome? (sourceError s) = (sourcesOf i).findSome? (sourceError t) := by
    generalize sourcesOf i = l at hs
    induction l with
    | nil => rfl
    | cons src l ih =>
      simp only [List.map_cons, List.cons.injEq] at hs
      simp only [List.findSome?_cons, sourceError_eq_factError, hs.1]
      rw [ih hs.2]
  simp only [firstError, hsrc, ho, hm, he]

/-- The error of a command's completion is an observation that R321 allows. -/
theorem leakContract_firstError :
    leakContract fun w s => match decode w with
      | .ok i => firstError s i
      | .error _ => some .illegal := by
  intro w i s t hw _ _ hf
  simp only [hw, firstError_eq_of_checkFacts hf]

end Sys2Proof.Machine
end

