-- ==== Sys2Proof/Laws/State.lean ====
section
/-! SUPPORT. One lemma per field per update of State, so that no proof unfolds a record update, and what
reading a register after a write gives.
-/
namespace Sys2Proof.Machine

@[simp] theorem writeB_b (s : State) (r : Reg) (v : Bytes32) : (writeB s r v).b = s.b.set r.toNat v r.isLt := rfl
@[simp] theorem writeB_f (s : State) (r : Reg) (v : Bytes32) : (writeB s r v).f = s.f := rfl
@[simp] theorem writeB_g (s : State) (r : Reg) (v : Bytes32) : (writeB s r v).g = s.g := rfl
@[simp] theorem writeB_flagT (s : State) (r : Reg) (v : Bytes32) : (writeB s r v).flagT = s.flagT := rfl
@[simp] theorem writeB_arg (s : State) (r : Reg) (v : Bytes32) : (writeB s r v).arg = s.arg := rfl
@[simp] theorem writeB_done (s : State) (r : Reg) (v : Bytes32) : (writeB s r v).done = s.done := rfl
@[simp] theorem writeB_err (s : State) (r : Reg) (v : Bytes32) : (writeB s r v).err = s.err := rfl
@[simp] theorem writeB_accv (s : State) (r : Reg) (v : Bytes32) : (writeB s r v).accv = s.accv := rfl
@[simp] theorem writeB_errcode (s : State) (r : Reg) (v : Bytes32) : (writeB s r v).errcode = s.errcode := rfl
@[simp] theorem writeB_ie (s : State) (r : Reg) (v : Bytes32) : (writeB s r v).ie = s.ie := rfl
@[simp] theorem writeB_msglen (s : State) (r : Reg) (v : Bytes32) : (writeB s r v).msglen = s.msglen := rfl
@[simp] theorem writeB_msg (s : State) (r : Reg) (v : Bytes32) : (writeB s r v).msg = s.msg := rfl
@[simp] theorem writeB_pend (s : State) (r : Reg) (v : Bytes32) : (writeB s r v).pend = s.pend := rfl
@[simp] theorem writeB_agenda (s : State) (r : Reg) (v : Bytes32) : (writeB s r v).agenda = s.agenda := rfl
@[simp] theorem writeB_rng (s : State) (r : Reg) (v : Bytes32) : (writeB s r v).rng = s.rng := rfl
@[simp] theorem writeB_draws (s : State) (r : Reg) (v : Bytes32) : (writeB s r v).draws = s.draws := rfl
@[simp] theorem writeB_rdata (s : State) (r : Reg) (v : Bytes32) : (writeB s r v).rdata = s.rdata := rfl

@[simp] theorem putF_b (s : State) (r : Reg) (v : Option Fe) : (putF s r v).b = s.b := rfl
@[simp] theorem putF_f (s : State) (r : Reg) (v : Option Fe) : (putF s r v).f = s.f.set r.toNat v r.isLt := rfl
@[simp] theorem putF_g (s : State) (r : Reg) (v : Option Fe) : (putF s r v).g = s.g := rfl
@[simp] theorem putF_flagT (s : State) (r : Reg) (v : Option Fe) : (putF s r v).flagT = s.flagT := rfl
@[simp] theorem putF_arg (s : State) (r : Reg) (v : Option Fe) : (putF s r v).arg = s.arg := rfl
@[simp] theorem putF_done (s : State) (r : Reg) (v : Option Fe) : (putF s r v).done = s.done := rfl
@[simp] theorem putF_err (s : State) (r : Reg) (v : Option Fe) : (putF s r v).err = s.err := rfl
@[simp] theorem putF_accv (s : State) (r : Reg) (v : Option Fe) : (putF s r v).accv = s.accv := rfl
@[simp] theorem putF_errcode (s : State) (r : Reg) (v : Option Fe) : (putF s r v).errcode = s.errcode := rfl
@[simp] theorem putF_ie (s : State) (r : Reg) (v : Option Fe) : (putF s r v).ie = s.ie := rfl
@[simp] theorem putF_msglen (s : State) (r : Reg) (v : Option Fe) : (putF s r v).msglen = s.msglen := rfl
@[simp] theorem putF_msg (s : State) (r : Reg) (v : Option Fe) : (putF s r v).msg = s.msg := rfl
@[simp] theorem putF_pend (s : State) (r : Reg) (v : Option Fe) : (putF s r v).pend = s.pend := rfl
@[simp] theorem putF_agenda (s : State) (r : Reg) (v : Option Fe) : (putF s r v).agenda = s.agenda := rfl
@[simp] theorem putF_rng (s : State) (r : Reg) (v : Option Fe) : (putF s r v).rng = s.rng := rfl
@[simp] theorem putF_draws (s : State) (r : Reg) (v : Option Fe) : (putF s r v).draws = s.draws := rfl
@[simp] theorem putF_rdata (s : State) (r : Reg) (v : Option Fe) : (putF s r v).rdata = s.rdata := rfl

@[simp] theorem putG_b (s : State) (r : Reg) (v : Option Point) : (putG s r v).b = s.b := rfl
@[simp] theorem putG_f (s : State) (r : Reg) (v : Option Point) : (putG s r v).f = s.f := rfl
@[simp] theorem putG_g (s : State) (r : Reg) (v : Option Point) : (putG s r v).g = s.g.set (gIndex r).val v (gIndex r).isLt := rfl
@[simp] theorem putG_flagT (s : State) (r : Reg) (v : Option Point) : (putG s r v).flagT = s.flagT := rfl
@[simp] theorem putG_arg (s : State) (r : Reg) (v : Option Point) : (putG s r v).arg = s.arg := rfl
@[simp] theorem putG_done (s : State) (r : Reg) (v : Option Point) : (putG s r v).done = s.done := rfl
@[simp] theorem putG_err (s : State) (r : Reg) (v : Option Point) : (putG s r v).err = s.err := rfl
@[simp] theorem putG_accv (s : State) (r : Reg) (v : Option Point) : (putG s r v).accv = s.accv := rfl
@[simp] theorem putG_errcode (s : State) (r : Reg) (v : Option Point) : (putG s r v).errcode = s.errcode := rfl
@[simp] theorem putG_ie (s : State) (r : Reg) (v : Option Point) : (putG s r v).ie = s.ie := rfl
@[simp] theorem putG_msglen (s : State) (r : Reg) (v : Option Point) : (putG s r v).msglen = s.msglen := rfl
@[simp] theorem putG_msg (s : State) (r : Reg) (v : Option Point) : (putG s r v).msg = s.msg := rfl
@[simp] theorem putG_pend (s : State) (r : Reg) (v : Option Point) : (putG s r v).pend = s.pend := rfl
@[simp] theorem putG_agenda (s : State) (r : Reg) (v : Option Point) : (putG s r v).agenda = s.agenda := rfl
@[simp] theorem putG_rng (s : State) (r : Reg) (v : Option Point) : (putG s r v).rng = s.rng := rfl
@[simp] theorem putG_draws (s : State) (r : Reg) (v : Option Point) : (putG s r v).draws = s.draws := rfl
@[simp] theorem putG_rdata (s : State) (r : Reg) (v : Option Point) : (putG s r v).rdata = s.rdata := rfl

@[simp] theorem setT_b (s : State) (v : Bool) : (setT s v).b = s.b := rfl
@[simp] theorem setT_f (s : State) (v : Bool) : (setT s v).f = s.f := rfl
@[simp] theorem setT_g (s : State) (v : Bool) : (setT s v).g = s.g := rfl
@[simp] theorem setT_flagT (s : State) (v : Bool) : (setT s v).flagT = v := rfl
@[simp] theorem setT_arg (s : State) (v : Bool) : (setT s v).arg = s.arg := rfl
@[simp] theorem setT_done (s : State) (v : Bool) : (setT s v).done = s.done := rfl
@[simp] theorem setT_err (s : State) (v : Bool) : (setT s v).err = s.err := rfl
@[simp] theorem setT_accv (s : State) (v : Bool) : (setT s v).accv = s.accv := rfl
@[simp] theorem setT_errcode (s : State) (v : Bool) : (setT s v).errcode = s.errcode := rfl
@[simp] theorem setT_ie (s : State) (v : Bool) : (setT s v).ie = s.ie := rfl
@[simp] theorem setT_msglen (s : State) (v : Bool) : (setT s v).msglen = s.msglen := rfl
@[simp] theorem setT_msg (s : State) (v : Bool) : (setT s v).msg = s.msg := rfl
@[simp] theorem setT_pend (s : State) (v : Bool) : (setT s v).pend = s.pend := rfl
@[simp] theorem setT_agenda (s : State) (v : Bool) : (setT s v).agenda = s.agenda := rfl
@[simp] theorem setT_rng (s : State) (v : Bool) : (setT s v).rng = s.rng := rfl
@[simp] theorem setT_draws (s : State) (v : Bool) : (setT s v).draws = s.draws := rfl
@[simp] theorem setT_rdata (s : State) (v : Bool) : (setT s v).rdata = s.rdata := rfl

@[simp] theorem issue_b (s : State) (w : Word) : (issue s w).b = s.b := rfl
@[simp] theorem issue_f (s : State) (w : Word) : (issue s w).f = s.f := rfl
@[simp] theorem issue_g (s : State) (w : Word) : (issue s w).g = s.g := rfl
@[simp] theorem issue_flagT (s : State) (w : Word) : (issue s w).flagT = s.flagT := rfl
@[simp] theorem issue_arg (s : State) (w : Word) : (issue s w).arg = s.arg := rfl
@[simp] theorem issue_done (s : State) (w : Word) : (issue s w).done = false := rfl
@[simp] theorem issue_err (s : State) (w : Word) : (issue s w).err = s.err := rfl
@[simp] theorem issue_accv (s : State) (w : Word) : (issue s w).accv = s.accv := rfl
@[simp] theorem issue_errcode (s : State) (w : Word) : (issue s w).errcode = s.errcode := rfl
@[simp] theorem issue_ie (s : State) (w : Word) : (issue s w).ie = s.ie := rfl
@[simp] theorem issue_msglen (s : State) (w : Word) : (issue s w).msglen = s.msglen := rfl
@[simp] theorem issue_msg (s : State) (w : Word) : (issue s w).msg = s.msg := rfl
@[simp] theorem issue_pend (s : State) (w : Word) : (issue s w).pend = some w := rfl
@[simp] theorem issue_agenda (s : State) (w : Word) : (issue s w).agenda = s.agenda := rfl
@[simp] theorem issue_rng (s : State) (w : Word) : (issue s w).rng = s.rng := rfl
@[simp] theorem issue_draws (s : State) (w : Word) : (issue s w).draws = s.draws := rfl
@[simp] theorem issue_rdata (s : State) (w : Word) : (issue s w).rdata = s.rdata := rfl

@[simp] theorem finish_b (s : State) : (finish s).b = s.b := rfl
@[simp] theorem finish_f (s : State) : (finish s).f = s.f := rfl
@[simp] theorem finish_g (s : State) : (finish s).g = s.g := rfl
@[simp] theorem finish_flagT (s : State) : (finish s).flagT = s.flagT := rfl
@[simp] theorem finish_arg (s : State) : (finish s).arg = s.arg := rfl
@[simp] theorem finish_done (s : State) : (finish s).done = true := rfl
@[simp] theorem finish_err (s : State) : (finish s).err = s.err := rfl
@[simp] theorem finish_accv (s : State) : (finish s).accv = s.accv := rfl
@[simp] theorem finish_errcode (s : State) : (finish s).errcode = s.errcode := rfl
@[simp] theorem finish_ie (s : State) : (finish s).ie = s.ie := rfl
@[simp] theorem finish_msglen (s : State) : (finish s).msglen = s.msglen := rfl
@[simp] theorem finish_msg (s : State) : (finish s).msg = s.msg := rfl
@[simp] theorem finish_pend (s : State) : (finish s).pend = none := rfl
@[simp] theorem finish_agenda (s : State) : (finish s).agenda = s.agenda := rfl
@[simp] theorem finish_rng (s : State) : (finish s).rng = s.rng := rfl
@[simp] theorem finish_draws (s : State) : (finish s).draws = s.draws := rfl
@[simp] theorem finish_rdata (s : State) : (finish s).rdata = s.rdata := rfl

@[simp] theorem takeError_b (s : State) (e : ErrCode) : (takeError s e).b = s.b := rfl
@[simp] theorem takeError_f (s : State) (e : ErrCode) : (takeError s e).f = s.f := rfl
@[simp] theorem takeError_g (s : State) (e : ErrCode) : (takeError s e).g = s.g := rfl
@[simp] theorem takeError_flagT (s : State) (e : ErrCode) : (takeError s e).flagT = s.flagT := rfl
@[simp] theorem takeError_arg (s : State) (e : ErrCode) : (takeError s e).arg = s.arg := rfl
@[simp] theorem takeError_done (s : State) (e : ErrCode) : (takeError s e).done = true := rfl
@[simp] theorem takeError_err (s : State) (e : ErrCode) : (takeError s e).err = true := rfl
@[simp] theorem takeError_accv (s : State) (e : ErrCode) : (takeError s e).accv = s.accv := rfl
@[simp] theorem takeError_errcode (s : State) (e : ErrCode) : (takeError s e).errcode = errWord e := rfl
@[simp] theorem takeError_ie (s : State) (e : ErrCode) : (takeError s e).ie = s.ie := rfl
@[simp] theorem takeError_msglen (s : State) (e : ErrCode) : (takeError s e).msglen = s.msglen := rfl
@[simp] theorem takeError_msg (s : State) (e : ErrCode) : (takeError s e).msg = s.msg := rfl
@[simp] theorem takeError_pend (s : State) (e : ErrCode) : (takeError s e).pend = none := rfl
@[simp] theorem takeError_agenda (s : State) (e : ErrCode) : (takeError s e).agenda = s.agenda := rfl
@[simp] theorem takeError_rng (s : State) (e : ErrCode) : (takeError s e).rng = s.rng := rfl
@[simp] theorem takeError_draws (s : State) (e : ErrCode) : (takeError s e).draws = s.draws := rfl
@[simp] theorem takeError_rdata (s : State) (e : ErrCode) : (takeError s e).rdata = s.rdata := rfl

@[simp] theorem clearError_b (s : State) : (clearError s).b = s.b := rfl
@[simp] theorem clearError_f (s : State) : (clearError s).f = s.f := rfl
@[simp] theorem clearError_g (s : State) : (clearError s).g = s.g := rfl
@[simp] theorem clearError_flagT (s : State) : (clearError s).flagT = s.flagT := rfl
@[simp] theorem clearError_arg (s : State) : (clearError s).arg = s.arg := rfl
@[simp] theorem clearError_done (s : State) : (clearError s).done = s.done := rfl
@[simp] theorem clearError_err (s : State) : (clearError s).err = false := rfl
@[simp] theorem clearError_accv (s : State) : (clearError s).accv = s.accv := rfl
@[simp] theorem clearError_errcode (s : State) : (clearError s).errcode = 0#32 := rfl
@[simp] theorem clearError_ie (s : State) : (clearError s).ie = s.ie := rfl
@[simp] theorem clearError_msglen (s : State) : (clearError s).msglen = s.msglen := rfl
@[simp] theorem clearError_msg (s : State) : (clearError s).msg = s.msg := rfl
@[simp] theorem clearError_pend (s : State) : (clearError s).pend = s.pend := rfl
@[simp] theorem clearError_agenda (s : State) : (clearError s).agenda = s.agenda := rfl
@[simp] theorem clearError_rng (s : State) : (clearError s).rng = s.rng := rfl
@[simp] theorem clearError_draws (s : State) : (clearError s).draws = s.draws := rfl
@[simp] theorem clearError_rdata (s : State) : (clearError s).rdata = s.rdata := rfl

@[simp] theorem respond_b (s : State) (v : Word) : (respond s v).b = s.b := rfl
@[simp] theorem respond_f (s : State) (v : Word) : (respond s v).f = s.f := rfl
@[simp] theorem respond_g (s : State) (v : Word) : (respond s v).g = s.g := rfl
@[simp] theorem respond_flagT (s : State) (v : Word) : (respond s v).flagT = s.flagT := rfl
@[simp] theorem respond_arg (s : State) (v : Word) : (respond s v).arg = s.arg := rfl
@[simp] theorem respond_done (s : State) (v : Word) : (respond s v).done = s.done := rfl
@[simp] theorem respond_err (s : State) (v : Word) : (respond s v).err = s.err := rfl
@[simp] theorem respond_accv (s : State) (v : Word) : (respond s v).accv = s.accv := rfl
@[simp] theorem respond_errcode (s : State) (v : Word) : (respond s v).errcode = s.errcode := rfl
@[simp] theorem respond_ie (s : State) (v : Word) : (respond s v).ie = s.ie := rfl
@[simp] theorem respond_msglen (s : State) (v : Word) : (respond s v).msglen = s.msglen := rfl
@[simp] theorem respond_msg (s : State) (v : Word) : (respond s v).msg = s.msg := rfl
@[simp] theorem respond_pend (s : State) (v : Word) : (respond s v).pend = s.pend := rfl
@[simp] theorem respond_agenda (s : State) (v : Word) : (respond s v).agenda = s.agenda := rfl
@[simp] theorem respond_rng (s : State) (v : Word) : (respond s v).rng = s.rng := rfl
@[simp] theorem respond_draws (s : State) (v : Word) : (respond s v).draws = s.draws := rfl
@[simp] theorem respond_rdata (s : State) (v : Word) : (respond s v).rdata = some v := rfl

@[simp] theorem setAccv_b (s : State) : (setAccv s).b = s.b := rfl
@[simp] theorem setAccv_f (s : State) : (setAccv s).f = s.f := rfl
@[simp] theorem setAccv_g (s : State) : (setAccv s).g = s.g := rfl
@[simp] theorem setAccv_flagT (s : State) : (setAccv s).flagT = s.flagT := rfl
@[simp] theorem setAccv_arg (s : State) : (setAccv s).arg = s.arg := rfl
@[simp] theorem setAccv_done (s : State) : (setAccv s).done = s.done := rfl
@[simp] theorem setAccv_err (s : State) : (setAccv s).err = s.err := rfl
@[simp] theorem setAccv_accv (s : State) : (setAccv s).accv = true := rfl
@[simp] theorem setAccv_errcode (s : State) : (setAccv s).errcode = s.errcode := rfl
@[simp] theorem setAccv_ie (s : State) : (setAccv s).ie = s.ie := rfl
@[simp] theorem setAccv_msglen (s : State) : (setAccv s).msglen = s.msglen := rfl
@[simp] theorem setAccv_msg (s : State) : (setAccv s).msg = s.msg := rfl
@[simp] theorem setAccv_pend (s : State) : (setAccv s).pend = s.pend := rfl
@[simp] theorem setAccv_agenda (s : State) : (setAccv s).agenda = s.agenda := rfl
@[simp] theorem setAccv_rng (s : State) : (setAccv s).rng = s.rng := rfl
@[simp] theorem setAccv_draws (s : State) : (setAccv s).draws = s.draws := rfl
@[simp] theorem setAccv_rdata (s : State) : (setAccv s).rdata = s.rdata := rfl

@[simp] theorem resetEngine_b (s : State) : (resetEngine s).b = Vector.replicate Config.nb 0#256 := rfl
@[simp] theorem resetEngine_f (s : State) : (resetEngine s).f = Vector.replicate Config.nfe none := rfl
@[simp] theorem resetEngine_g (s : State) : (resetEngine s).g = Vector.replicate Config.nge none := rfl
@[simp] theorem resetEngine_flagT (s : State) : (resetEngine s).flagT = false := rfl
@[simp] theorem resetEngine_arg (s : State) : (resetEngine s).arg = 0#32 := rfl
@[simp] theorem resetEngine_done (s : State) : (resetEngine s).done = false := rfl
@[simp] theorem resetEngine_err (s : State) : (resetEngine s).err = false := rfl
@[simp] theorem resetEngine_accv (s : State) : (resetEngine s).accv = false := rfl
@[simp] theorem resetEngine_errcode (s : State) : (resetEngine s).errcode = 0#32 := rfl
@[simp] theorem resetEngine_ie (s : State) : (resetEngine s).ie = false := rfl
@[simp] theorem resetEngine_msglen (s : State) : (resetEngine s).msglen = 0#32 := rfl
@[simp] theorem resetEngine_msg (s : State) : (resetEngine s).msg = [] := rfl
@[simp] theorem resetEngine_pend (s : State) : (resetEngine s).pend = none := rfl
@[simp] theorem resetEngine_agenda (s : State) : (resetEngine s).agenda = s.agenda := rfl
@[simp] theorem resetEngine_rng (s : State) : (resetEngine s).rng = s.rng := rfl
@[simp] theorem resetEngine_draws (s : State) : (resetEngine s).draws = s.draws := rfl
@[simp] theorem resetEngine_rdata (s : State) : (resetEngine s).rdata = s.rdata := rfl

@[simp] theorem wipeAll_b (s : State) : (wipeAll s).b = Vector.replicate Config.nb 0#256 := rfl
@[simp] theorem wipeAll_f (s : State) : (wipeAll s).f = Vector.replicate Config.nfe none := rfl
@[simp] theorem wipeAll_g (s : State) : (wipeAll s).g = Vector.replicate Config.nge none := rfl
@[simp] theorem wipeAll_flagT (s : State) : (wipeAll s).flagT = false := rfl
@[simp] theorem wipeAll_arg (s : State) : (wipeAll s).arg = 0#32 := rfl
@[simp] theorem wipeAll_done (s : State) : (wipeAll s).done = s.done := rfl
@[simp] theorem wipeAll_err (s : State) : (wipeAll s).err = s.err := rfl
@[simp] theorem wipeAll_accv (s : State) : (wipeAll s).accv = s.accv := rfl
@[simp] theorem wipeAll_errcode (s : State) : (wipeAll s).errcode = s.errcode := rfl
@[simp] theorem wipeAll_ie (s : State) : (wipeAll s).ie = s.ie := rfl
@[simp] theorem wipeAll_msglen (s : State) : (wipeAll s).msglen = 0#32 := rfl
@[simp] theorem wipeAll_msg (s : State) : (wipeAll s).msg = [] := rfl
@[simp] theorem wipeAll_pend (s : State) : (wipeAll s).pend = s.pend := rfl
@[simp] theorem wipeAll_agenda (s : State) : (wipeAll s).agenda = s.agenda := rfl
@[simp] theorem wipeAll_rng (s : State) : (wipeAll s).rng = s.rng := rfl
@[simp] theorem wipeAll_draws (s : State) : (wipeAll s).draws = s.draws := rfl
@[simp] theorem wipeAll_rdata (s : State) : (wipeAll s).rdata = s.rdata := rfl

@[simp] theorem takeDraw_b (s : State) : (takeDraw s).b = s.b := by unfold takeDraw; split <;> rfl
@[simp] theorem takeDraw_f (s : State) : (takeDraw s).f = s.f := by unfold takeDraw; split <;> rfl
@[simp] theorem takeDraw_g (s : State) : (takeDraw s).g = s.g := by unfold takeDraw; split <;> rfl
@[simp] theorem takeDraw_flagT (s : State) : (takeDraw s).flagT = s.flagT := by unfold takeDraw; split <;> rfl
@[simp] theorem takeDraw_arg (s : State) : (takeDraw s).arg = s.arg := by unfold takeDraw; split <;> rfl
@[simp] theorem takeDraw_done (s : State) : (takeDraw s).done = s.done := by unfold takeDraw; split <;> rfl
@[simp] theorem takeDraw_err (s : State) : (takeDraw s).err = s.err := by unfold takeDraw; split <;> rfl
@[simp] theorem takeDraw_accv (s : State) : (takeDraw s).accv = s.accv := by unfold takeDraw; split <;> rfl
@[simp] theorem takeDraw_errcode (s : State) : (takeDraw s).errcode = s.errcode := by unfold takeDraw; split <;> rfl
@[simp] theorem takeDraw_ie (s : State) : (takeDraw s).ie = s.ie := by unfold takeDraw; split <;> rfl
@[simp] theorem takeDraw_msglen (s : State) : (takeDraw s).msglen = s.msglen := by unfold takeDraw; split <;> rfl
@[simp] theorem takeDraw_msg (s : State) : (takeDraw s).msg = s.msg := by unfold takeDraw; split <;> rfl
@[simp] theorem takeDraw_pend (s : State) : (takeDraw s).pend = s.pend := by unfold takeDraw; split <;> rfl
@[simp] theorem takeDraw_agenda (s : State) : (takeDraw s).agenda = s.agenda := by unfold takeDraw; split <;> rfl
@[simp] theorem takeDraw_rdata (s : State) : (takeDraw s).rdata = s.rdata := by unfold takeDraw; split <;> rfl

/-! ## Reading after writing -/

theorem reg_toNat_inj {r q : Reg} (h : r.toNat = q.toNat) : r = q := BitVec.eq_of_toNat_eq h

@[simp] theorem readB_writeB_same (s : State) (r : Reg) (v : Bytes32) : readB (writeB s r v) r = v := by
  simp [readB]

theorem readB_writeB_other (s : State) (r q : Reg) (v : Bytes32) (h : q ≠ r) : readB (writeB s r v) q = readB s q := by
  have hne : r.toNat ≠ q.toNat := fun e => h (reg_toNat_inj e).symm
  simp [readB, hne]

@[simp] theorem readF_putF_same (s : State) (r : Reg) (v : Option Fe) : readF (putF s r v) r = v := by
  simp [readF]

theorem readF_putF_other (s : State) (r q : Reg) (v : Option Fe) (h : q ≠ r) : readF (putF s r v) q = readF s q := by
  have hne : r.toNat ≠ q.toNat := fun e => h (reg_toNat_inj e).symm
  simp [readF, hne]

@[simp] theorem readG_putG_same (s : State) (r : Reg) (v : Option Point) : readG (putG s r v) r = v := by
  simp [readG]

theorem readG_putG_index (s : State) (r q : Reg) (v : Option Point) (h : gIndex q = gIndex r) :
    readG (putG s r v) q = v := by
  simp [readG, h]

theorem readG_putG_other (s : State) (r q : Reg) (v : Option Point) (h : gIndex q ≠ gIndex r) :
    readG (putG s r v) q = readG s q := by
  have hne : (gIndex r).val ≠ (gIndex q).val := fun e => h (Fin.ext e).symm
  simp [readG, hne]

/-- Two legal G fields with the same index are the same field. -/
theorem gIndex_inj {r q : Reg} (hr : gFieldOk r = true) (hq : gFieldOk q = true) (h : gIndex r = gIndex q) : r = q := by
  revert r q; decide

/-- Two legal W fields whose low halves are the same register are the same field. -/
theorem wLow_inj {r q : Reg} (hr : wFieldOk r = true) (hq : wFieldOk q = true) (h : wLow r = wLow q) : r = q := by
  revert r q; decide

/-- The two halves of a view are different registers (R22). -/
theorem wLow_ne_wHigh (r : Reg) : wLow r ≠ wHigh r := by
  revert r; decide

/-- For a legal W field the halves are `B[2j]` and `B[2j+1]` (R22). -/
theorem wLow_toNat {r : Reg} (h : wFieldOk r = true) : (wLow r).toNat = 2 * r.toNat := by
  revert r; decide

theorem wHigh_toNat {r : Reg} (h : wFieldOk r = true) : (wHigh r).toNat = 2 * r.toNat + 1 := by
  revert r; decide

@[simp] theorem readF_writeB (s : State) (r q : Reg) (v : Bytes32) : readF (writeB s r v) q = readF s q := rfl
@[simp] theorem readG_writeB (s : State) (r q : Reg) (v : Bytes32) : readG (writeB s r v) q = readG s q := rfl
@[simp] theorem readB_putF (s : State) (r q : Reg) (v : Option Fe) : readB (putF s r v) q = readB s q := rfl
@[simp] theorem readG_putF (s : State) (r q : Reg) (v : Option Fe) : readG (putF s r v) q = readG s q := rfl
@[simp] theorem readB_putG (s : State) (r q : Reg) (v : Option Point) : readB (putG s r v) q = readB s q := rfl
@[simp] theorem readF_putG (s : State) (r q : Reg) (v : Option Point) : readF (putG s r v) q = readF s q := rfl
@[simp] theorem readB_setT (s : State) (q : Reg) (v : Bool) : readB (setT s v) q = readB s q := rfl
@[simp] theorem readF_setT (s : State) (q : Reg) (v : Bool) : readF (setT s v) q = readF s q := rfl
@[simp] theorem readG_setT (s : State) (q : Reg) (v : Bool) : readG (setT s v) q = readG s q := rfl
@[simp] theorem readB_finish (s : State) (q : Reg) : readB (finish s) q = readB s q := rfl
@[simp] theorem readF_finish (s : State) (q : Reg) : readF (finish s) q = readF s q := rfl
@[simp] theorem readG_finish (s : State) (q : Reg) : readG (finish s) q = readG s q := rfl
@[simp] theorem readB_takeError (s : State) (q : Reg) (e : ErrCode) : readB (takeError s e) q = readB s q := rfl
@[simp] theorem readF_takeError (s : State) (q : Reg) (e : ErrCode) : readF (takeError s e) q = readF s q := rfl
@[simp] theorem readG_takeError (s : State) (q : Reg) (e : ErrCode) : readG (takeError s e) q = readG s q := rfl
@[simp] theorem readB_takeDraw (s : State) (q : Reg) : readB (takeDraw s) q = readB s q := by simp [readB]
@[simp] theorem readF_takeDraw (s : State) (q : Reg) : readF (takeDraw s) q = readF s q := by simp [readF]
@[simp] theorem readG_takeDraw (s : State) (q : Reg) : readG (takeDraw s) q = readG s q := by simp [readG]

/-- A written view reads back whole (R22). -/
@[simp] theorem readW_writeW_same (s : State) (r : Reg) (v : Bytes64) : readW (writeW s r v) r = v := by
  have h : readB (writeB (writeB s (wLow r) (v.extractLsb' 0 256)) (wHigh r) (v.extractLsb' 256 256)) (wLow r) =
      v.extractLsb' 0 256 := by
    rw [readB_writeB_other _ _ _ _ (wLow_ne_wHigh r)]; simp
  simp only [readW, writeW, readB_writeB_same, h]
  apply BitVec.eq_of_getLsbD_eq
  intro i hi
  simp only [BitVec.getLsbD_append, BitVec.getLsbD_extractLsb']
  by_cases h1 : i < 256
  · simp [h1]
  · simp [h1, show i - 256 < 256 by omega, show 256 + (i - 256) = i by omega]

end Sys2Proof.Machine
end

