-- ==== Sys2Proof/Laws/Command.lean ====
section
/-! SUPPORT. What the shared shapes of the commands do: completion, operand checks, and the one lemma per shape
that the claims cite instead of unfolding it (R99, R281, R296).
-/
namespace Sys2Proof.Machine

/-! ## Completion -/

@[simp] theorem complete_ok (s t : State) : complete s (.ok t) = finish t := rfl
@[simp] theorem complete_error (s : State) (e : ErrCode) : complete s (.error e) = takeError s e := rfl

/-- A legal command completes with its effect, or with its error (R296). -/
theorem command_legal {i : Instr} (h : i.wf = true) (s : State) (effect : Except ErrCode State) :
    command i s effect = .next (complete s effect) := by simp [command, h]

/-- A command with an illegal field completes with `ERR_ILLEGAL` (R92, R97). -/
theorem command_illegal {i : Instr} (h : i.wf = false) (s : State) (effect : Except ErrCode State) :
    command i s effect = .next (takeError s .illegal) := by simp [command, h]

/-- Everything a completion can do (R296): the error's fields over `s`, or the effect finished. -/
theorem command_cases {i : Instr} {s t : State} {effect : Except ErrCode State} (h : command i s effect = .next t) :
    (∃ e, t = takeError s e) ∨ (∃ s', effect = .ok s' ∧ i.wf = true ∧ t = finish s') := by
  unfold command at h
  cases hw : i.wf with
  | false => simp only [hw] at h; exact .inl ⟨.illegal, by simpa using h.symm⟩
  | true =>
    simp only [hw, if_true] at h
    cases effect with
    | error e => exact .inl ⟨e, by simpa using h.symm⟩
    | ok s' => exact .inr ⟨s', rfl, rfl, by simpa using h.symm⟩

theorem isSome_finish_pend (s : State) : (finish s).busy = false := rfl
theorem isSome_takeError_pend (s : State) (e : ErrCode) : (takeError s e).busy = false := rfl

/-! ## Operand checks (R99) -/

theorem needF_some {s : State} {r : Reg} {v : Fe} (h : readF s r = some v) : needF s r = .ok v := by simp [needF, h]
theorem needF_empty {s : State} {r : Reg} (h : readF s r = none) : needF s r = .error .empty := by simp [needF, h]

theorem needF_cases {s : State} {r : Reg} {v : Fe} : needF s r = .ok v ↔ readF s r = some v := by
  unfold needF; split <;> simp_all

theorem needP2_ok {s : State} {r : Reg} {v : P2} : needP2 s r = .ok v ↔ readG s r = some (.p2 v) := by
  unfold needP2; split <;> simp_all

theorem needP2_empty {s : State} {r : Reg} (h : readG s r = none) : needP2 s r = .error .empty := by
  simp [needP2, h]

theorem needP2_tag {s : State} {r : Reg} {p : Point} (h : readG s r = some p) (hp : ∀ v, p ≠ .p2 v) :
    needP2 s r = .error .tag := by
  cases p <;> simp_all [needP2]

theorem needP3_ok {s : State} {r : Reg} {v : P3} : needP3 s r = .ok v ↔ readG s r = some (.p3 v) := by
  unfold needP3; split <;> simp_all

theorem needP3_empty {s : State} {r : Reg} (h : readG s r = none) : needP3 s r = .error .empty := by
  simp [needP3, h]

theorem needP3_tag {s : State} {r : Reg} {p : Point} (h : readG s r = some p) (hp : ∀ v, p ≠ .p3 v) :
    needP3 s r = .error .tag := by
  cases p <;> simp_all [needP3]

theorem needP1P1_ok {s : State} {r : Reg} {v : P1P1} : needP1P1 s r = .ok v ↔ readG s r = some (.p1p1 v) := by
  unfold needP1P1; split <;> simp_all

theorem needP1P1_empty {s : State} {r : Reg} (h : readG s r = none) : needP1P1 s r = .error .empty := by
  simp [needP1P1, h]

theorem needP1P1_tag {s : State} {r : Reg} {p : Point} (h : readG s r = some p) (hp : ∀ v, p ≠ .p1p1 v) :
    needP1P1 s r = .error .tag := by
  cases p <;> simp_all [needP1P1]

theorem needCached_ok {s : State} {r : Reg} {v : Cached} : needCached s r = .ok v ↔ readG s r = some (.cached v) := by
  unfold needCached; split <;> simp_all

theorem needCached_empty {s : State} {r : Reg} (h : readG s r = none) : needCached s r = .error .empty := by
  simp [needCached, h]

theorem needCached_tag {s : State} {r : Reg} {p : Point} (h : readG s r = some p) (hp : ∀ v, p ≠ .cached v) :
    needCached s r = .error .tag := by
  cases p <;> simp_all [needCached]

theorem needPrecomp_ok {s : State} {r : Reg} {v : Precomp} : needPrecomp s r = .ok v ↔ readG s r = some (.precomp v) := by
  unfold needPrecomp; split <;> simp_all

theorem needPrecomp_empty {s : State} {r : Reg} (h : readG s r = none) : needPrecomp s r = .error .empty := by
  simp [needPrecomp, h]

theorem needPrecomp_tag {s : State} {r : Reg} {p : Point} (h : readG s r = some p) (hp : ∀ v, p ≠ .precomp v) :
    needPrecomp s r = .error .tag := by
  cases p <;> simp_all [needPrecomp]

theorem needMessage_ok {s : State} (h : s.msglen.toNat ≤ Config.msgBytes) :
    needMessage s = .ok (memFirst s.msg s.msglen.toNat) := by simp [needMessage, h]

theorem needMessage_long {s : State} (h : ¬ s.msglen.toNat ≤ Config.msgBytes) :
    needMessage s = .error .msglen := by simp [needMessage, h]

theorem needDisjoint_ok {rd ra : Reg} (h : destOverlap rd ra = false) : needDisjoint rd ra = .ok () := by
  simp [needDisjoint, h]

theorem needDisjoint_overlap {rd ra : Reg} (h : destOverlap rd ra = true) :
    needDisjoint rd ra = .error .illegal := by simp [needDisjoint, h]

/-! ## The shapes -/

theorem feUnary_ok {s : State} {rd ra : Reg} {a : Fe} (op : Fe → Fe) (h : readF s ra = some a) :
    feUnary s rd ra op = .ok (putF s rd (some (op a))) := by
  simp [feUnary, needF_some h, bind, Except.bind, pure, Except.pure]

theorem feUnary_empty {s : State} {rd ra : Reg} (op : Fe → Fe) (h : readF s ra = none) :
    feUnary s rd ra op = .error .empty := by
  simp [feUnary, needF_empty h, bind, Except.bind]

theorem feBinary_ok {s : State} {rd ra rb : Reg} {a b : Fe} (op : Fe → Fe → Fe) (ha : readF s ra = some a)
    (hb : readF s rb = some b) : feBinary s rd ra rb op = .ok (putF s rd (some (op a b))) := by
  simp [feBinary, needF_some ha, needF_some hb, bind, Except.bind, pure, Except.pure]

theorem feBinary_empty {s : State} {rd ra rb : Reg} (op : Fe → Fe → Fe) (h : readF s ra = none ∨ readF s rb = none) :
    feBinary s rd ra rb op = .error .empty := by
  cases ha : readF s ra with
  | none => simp [feBinary, needF_empty ha, bind, Except.bind]
  | some a =>
    have hb : readF s rb = none := by simpa [ha] using h
    simp [feBinary, needF_some ha, needF_empty hb, bind, Except.bind]

/-- Everything a one-source field command can do. -/
theorem feUnary_cases {s t : State} {rd ra : Reg} {op : Fe → Fe} (h : feUnary s rd ra op = .ok t) :
    ∃ a, readF s ra = some a ∧ t = putF s rd (some (op a)) := by
  cases ha : readF s ra with
  | none => rw [feUnary_empty op ha] at h; cases h
  | some a => rw [feUnary_ok op ha] at h; exact ⟨a, rfl, by simpa using h.symm⟩

/-- Everything a two-source field command can do. -/
theorem feBinary_cases {s t : State} {rd ra rb : Reg} {op : Fe → Fe → Fe} (h : feBinary s rd ra rb op = .ok t) :
    ∃ a b, readF s ra = some a ∧ readF s rb = some b ∧ t = putF s rd (some (op a b)) := by
  cases ha : readF s ra with
  | none => rw [feBinary_empty op (.inl ha)] at h; cases h
  | some a =>
    cases hb : readF s rb with
    | none => rw [feBinary_empty op (.inr hb)] at h; cases h
    | some b => rw [feBinary_ok op ha hb] at h; exact ⟨a, b, rfl, rfl, by simpa using h.symm⟩

theorem geUnary_ok {α : Type} {s : State} {rd ra : Reg} {need : State → Reg → Except ErrCode α} {a : α}
    (op : α → Point) (h : need s ra = .ok a) : geUnary s rd ra need op = .ok (putG s rd (some (op a))) := by
  simp [geUnary, h, bind, Except.bind, pure, Except.pure]

theorem geUnary_error {α : Type} {s : State} {rd ra : Reg} {need : State → Reg → Except ErrCode α} {e : ErrCode}
    (op : α → Point) (h : need s ra = .error e) : geUnary s rd ra need op = .error e := by
  simp [geUnary, h, bind, Except.bind]

/-- Everything a one-source group command can do. -/
theorem geUnary_cases {α : Type} {s t : State} {rd ra : Reg} {need : State → Reg → Except ErrCode α}
    {op : α → Point} (h : geUnary s rd ra need op = .ok t) :
    ∃ a, need s ra = .ok a ∧ t = putG s rd (some (op a)) := by
  cases ha : need s ra with
  | error e => rw [geUnary_error op ha] at h; cases h
  | ok a => rw [geUnary_ok op ha] at h; exact ⟨a, rfl, by simpa using h.symm⟩

theorem geBinary_ok {α : Type} {s : State} {rd ra rb : Reg} {need : State → Reg → Except ErrCode α} {a : P3} {b : α}
    (op : P3 → α → P1P1) (ha : readG s ra = some (.p3 a)) (hb : need s rb = .ok b) :
    geBinary s rd ra rb need op = .ok (putG s rd (some (.p1p1 (op a b)))) := by
  simp [geBinary, needP3_ok.mpr ha, hb, bind, Except.bind, pure, Except.pure]

theorem geBinary_error_ra {α : Type} {s : State} {rd ra rb : Reg} {need : State → Reg → Except ErrCode α}
    {e : ErrCode} (op : P3 → α → P1P1) (ha : needP3 s ra = .error e) :
    geBinary s rd ra rb need op = .error e := by
  simp [geBinary, ha, bind, Except.bind]

theorem geBinary_error_rb {α : Type} {s : State} {rd ra rb : Reg} {need : State → Reg → Except ErrCode α} {a : P3}
    {e : ErrCode} (op : P3 → α → P1P1) (ha : readG s ra = some (.p3 a)) (hb : need s rb = .error e) :
    geBinary s rd ra rb need op = .error e := by
  simp [geBinary, needP3_ok.mpr ha, hb, bind, Except.bind]

/-- Everything a two-source group command can do. -/
theorem geBinary_cases {α : Type} {s t : State} {rd ra rb : Reg} {need : State → Reg → Except ErrCode α}
    {op : P3 → α → P1P1} (h : geBinary s rd ra rb need op = .ok t) :
    ∃ a b, readG s ra = some (.p3 a) ∧ need s rb = .ok b ∧ t = putG s rd (some (.p1p1 (op a b))) := by
  cases ha : needP3 s ra with
  | error e => rw [geBinary_error_ra op ha] at h; cases h
  | ok a =>
    have ha' := needP3_ok.mp ha
    cases hb : need s rb with
    | error e => rw [geBinary_error_rb op ha' hb] at h; cases h
    | ok b => rw [geBinary_ok op ha' hb] at h; exact ⟨a, b, ha', rfl, by simpa using h.symm⟩

end Sys2Proof.Machine
end

