-- ==== Sys2Proof/Laws/Encoding.lean ====
section
/-! SUPPORT. The fields of a command word, cut out of it and masked, field by field (R90, R95).
-/
namespace Sys2Proof

/-- Every bit of a word put together from a top byte, four fields and an opcode. -/
theorem getLsbD_fields (z op : BitVec 8) (rd ra rb rc : Reg) (i : Nat) :
    (show Word from z ++ (rc ++ (rb ++ (ra ++ (rd ++ op))))).getLsbD i =
      if i < 8 then op.getLsbD i
      else if i < 12 then rd.getLsbD (i - 8)
      else if i < 16 then ra.getLsbD (i - 12)
      else if i < 20 then rb.getLsbD (i - 16)
      else if i < 24 then rc.getLsbD (i - 20)
      else z.getLsbD (i - 24) := by
  show (z ++ (rc ++ (rb ++ (ra ++ (rd ++ op))))).getLsbD i = _
  rw [BitVec.getLsbD_append, BitVec.getLsbD_append, BitVec.getLsbD_append, BitVec.getLsbD_append,
    BitVec.getLsbD_append]
  simp only [Nat.reduceAdd]
  by_cases h1 : i < 8
  · simp [h1, show i < 12 by omega, show i < 16 by omega, show i < 20 by omega, show i < 24 by omega]
  by_cases h2 : i < 12
  · simp [h1, h2, show i < 16 by omega, show i < 20 by omega, show i < 24 by omega]
  by_cases h3 : i < 16
  · simp [h1, h2, h3, show i < 20 by omega, show i < 24 by omega]
  by_cases h4 : i < 20
  · simp [h1, h2, h3, h4, show i < 24 by omega]
  simp [h1, h2, h3, h4]

theorem commandWord_getLsbD (op : BitVec 8) (rd ra rb rc : Reg) (i : Nat) :
    (commandWord op rd ra rb rc).getLsbD i =
      if i < 8 then op.getLsbD i
      else if i < 12 then rd.getLsbD (i - 8)
      else if i < 16 then ra.getLsbD (i - 12)
      else if i < 20 then rb.getLsbD (i - 16)
      else if i < 24 then rc.getLsbD (i - 20)
      else false := by
  rw [commandWord]
  refine (getLsbD_fields 0#8 op rd ra rb rc i).trans ?_
  simp only [BitVec.getLsbD_zero]

@[simp] theorem commandWord_opcode (op : BitVec 8) (rd ra rb rc : Reg) :
    (commandWord op rd ra rb rc).extractLsb' 0 8 = op := by
  apply BitVec.eq_of_getLsbD_eq; intro i hi
  rw [BitVec.getLsbD_extractLsb', commandWord_getLsbD]
  simp [hi]

@[simp] theorem commandWord_rd (op : BitVec 8) (rd ra rb rc : Reg) :
    (commandWord op rd ra rb rc).extractLsb' 8 4 = rd := by
  apply BitVec.eq_of_getLsbD_eq; intro i hi
  rw [BitVec.getLsbD_extractLsb', commandWord_getLsbD]
  simp [hi, show ¬ 8 + i < 8 by omega, show 8 + i < 12 by omega]

@[simp] theorem commandWord_ra (op : BitVec 8) (rd ra rb rc : Reg) :
    (commandWord op rd ra rb rc).extractLsb' 12 4 = ra := by
  apply BitVec.eq_of_getLsbD_eq; intro i hi
  rw [BitVec.getLsbD_extractLsb', commandWord_getLsbD]
  simp [hi, show ¬ 12 + i < 8 by omega, show ¬ 12 + i < 12 by omega, show 12 + i < 16 by omega]

@[simp] theorem commandWord_rb (op : BitVec 8) (rd ra rb rc : Reg) :
    (commandWord op rd ra rb rc).extractLsb' 16 4 = rb := by
  apply BitVec.eq_of_getLsbD_eq; intro i hi
  rw [BitVec.getLsbD_extractLsb', commandWord_getLsbD]
  simp [hi, show ¬ 16 + i < 8 by omega, show ¬ 16 + i < 12 by omega, show ¬ 16 + i < 16 by omega, show 16 + i < 20 by omega]

@[simp] theorem commandWord_rc (op : BitVec 8) (rd ra rb rc : Reg) :
    (commandWord op rd ra rb rc).extractLsb' 20 4 = rc := by
  apply BitVec.eq_of_getLsbD_eq; intro i hi
  rw [BitVec.getLsbD_extractLsb', commandWord_getLsbD]
  simp [hi, show ¬ 20 + i < 8 by omega, show ¬ 20 + i < 12 by omega, show ¬ 20 + i < 16 by omega, show ¬ 20 + i < 20 by omega, show 20 + i < 24 by omega]

@[simp] theorem commandWord_zero (op : BitVec 8) (rd ra rb rc : Reg) :
    (commandWord op rd ra rb rc).extractLsb' 24 8 = 0#8 := by
  apply BitVec.eq_of_getLsbD_eq; intro i hi
  rw [BitVec.getLsbD_extractLsb', commandWord_getLsbD]
  simp [show ¬ 24 + i < 8 by omega, show ¬ 24 + i < 12 by omega, show ¬ 24 + i < 16 by omega,
    show ¬ 24 + i < 20 by omega]

/-- A word whose top byte is 0 is the command word of its fields (R90). -/
theorem commandWord_of_fields (w : Word) (h : w.extractLsb' 24 8 = 0#8) :
    commandWord (w.extractLsb' 0 8) (w.extractLsb' 8 4) (w.extractLsb' 12 4) (w.extractLsb' 16 4)
      (w.extractLsb' 20 4) = w := by
  apply BitVec.eq_of_getLsbD_eq; intro i hi
  rw [commandWord_getLsbD]
  simp only [BitVec.getLsbD_extractLsb']
  by_cases h1 : i < 8
  · simp [h1]
  by_cases h2 : i < 12
  · simp [h1, h2, show i - 8 < 4 by omega, show 8 + (i - 8) = i by omega]
  by_cases h3 : i < 16
  · simp [h1, h2, h3, show i - 12 < 4 by omega, show 12 + (i - 12) = i by omega]
  by_cases h4 : i < 20
  · simp [h1, h2, h3, h4, show i - 16 < 4 by omega, show 16 + (i - 16) = i by omega]
  by_cases h5 : i < 24
  · simp [h1, h2, h3, h4, h5, show i - 20 < 4 by omega, show 20 + (i - 20) = i by omega]
  · have hz := congrArg (fun v => v.getLsbD (i - 24)) h
    simp only [BitVec.getLsbD_extractLsb'] at hz
    simp [h1, h2, h3, h4, h5]
    simpa [show i - 24 < 8 by omega, show 24 + (i - 24) = i by omega] using hz.symm

/-- Masking a command word masks each field by itself; the mask is given by its fields, with bits 31:24 set
as in every mask of R96. -/
theorem commandWord_and (op mop : BitVec 8) (rd ra rb rc md ma mb mc : Reg) :
    commandWord op rd ra rb rc &&& (show Word from 0xff#8 ++ (mc ++ (mb ++ (ma ++ (md ++ mop))))) =
      commandWord (op &&& mop) (rd &&& md) (ra &&& ma) (rb &&& mb) (rc &&& mc) := by
  apply BitVec.eq_of_getLsbD_eq; intro i hi
  rw [BitVec.getLsbD_and, commandWord_getLsbD, commandWord_getLsbD, getLsbD_fields]
  simp only [BitVec.getLsbD_and]
  split_ifs <;> simp

/-- Two command words are equal exactly when their fields are. -/
theorem commandWord_inj {op op' : BitVec 8} {rd ra rb rc rd' ra' rb' rc' : Reg} :
    commandWord op rd ra rb rc = commandWord op' rd' ra' rb' rc' ↔
      op = op' ∧ rd = rd' ∧ ra = ra' ∧ rb = rb' ∧ rc = rc' := by
  constructor
  · intro h
    refine ⟨?_, ?_, ?_, ?_, ?_⟩
    · simpa using congrArg (BitVec.extractLsb' 0 8) h
    · simpa using congrArg (BitVec.extractLsb' 8 4) h
    · simpa using congrArg (BitVec.extractLsb' 12 4) h
    · simpa using congrArg (BitVec.extractLsb' 16 4) h
    · simpa using congrArg (BitVec.extractLsb' 20 4) h
  · rintro ⟨rfl, rfl, rfl, rfl, rfl⟩; rfl

/-- A word is the concatenation of its six fields (R90). -/
theorem word_fields (w : Word) :
    w = (show Word from w.extractLsb' 24 8 ++ (w.extractLsb' 20 4 ++ (w.extractLsb' 16 4 ++
      (w.extractLsb' 12 4 ++ (w.extractLsb' 8 4 ++ w.extractLsb' 0 8))))) := by
  apply BitVec.eq_of_getLsbD_eq; intro i hi
  rw [getLsbD_fields]
  simp only [BitVec.getLsbD_extractLsb']
  by_cases h1 : i < 8
  · simp [h1]
  by_cases h2 : i < 12
  · simp [h1, h2, show i - 8 < 4 by omega, show 8 + (i - 8) = i by omega]
  by_cases h3 : i < 16
  · simp [h1, h2, h3, show i - 12 < 4 by omega, show 12 + (i - 12) = i by omega]
  by_cases h4 : i < 20
  · simp [h1, h2, h3, h4, show i - 16 < 4 by omega, show 16 + (i - 16) = i by omega]
  by_cases h5 : i < 24
  · simp [h1, h2, h3, h4, h5, show i - 20 < 4 by omega, show 20 + (i - 20) = i by omega]
  · simp [h1, h2, h3, h4, h5, show i - 24 < 8 by omega, show 24 + (i - 24) = i by omega]

/-- The mask test of R92 and R95 on a command word is a test of each field by itself. -/
theorem commandWord_mask (op : BitVec 8) (rd ra rb rc : Reg) (mask pat : Word)
    (hm : mask.extractLsb' 24 8 = 0xff#8) (hp : pat.extractLsb' 24 8 = 0#8) :
    commandWord op rd ra rb rc &&& mask = pat ↔
      op &&& mask.extractLsb' 0 8 = pat.extractLsb' 0 8 ∧ rd &&& mask.extractLsb' 8 4 = pat.extractLsb' 8 4 ∧
      ra &&& mask.extractLsb' 12 4 = pat.extractLsb' 12 4 ∧ rb &&& mask.extractLsb' 16 4 = pat.extractLsb' 16 4 ∧
      rc &&& mask.extractLsb' 20 4 = pat.extractLsb' 20 4 := by
  conv_lhs => rw [word_fields mask, hm, ← commandWord_of_fields pat hp]
  rw [commandWord_and, commandWord_inj]

/-- `accept` answers the command exactly when the mask test holds (R95). -/
theorem accept_ok (w mask pat : Word) (i j : Instr) : accept w mask pat i = .ok j ↔ w &&& mask = pat ∧ i = j := by
  unfold accept
  split
  · rename_i h; simp [h]
  · rename_i h; split <;> simp [h]

/-- The three field masks of R96: a G or W field, an unused field, an F or B field. -/
theorem mask_g_field {r : Reg} : r &&& 0x8#4 = 0#4 ↔ r.toNat < 8 := by revert r; decide
theorem mask_unused_field {r : Reg} : r &&& 0xf#4 = 0#4 ↔ r = 0#4 := by revert r; decide
theorem mask_free_field {r : Reg} : r &&& 0x0#4 = 0#4 := by revert r; decide

end Sys2Proof
end

