-- ==== Sys2Proof/Laws/Exec.lean ====
section
/-! SUPPORT. What `exec` can do, over all 49 commands: a command with an illegal field is `ERR_ILLEGAL`, and every
command answers a completed state (R97, R296).
-/
namespace Sys2Proof.Machine

/-- A command with a G or W field above 7 raises `ERR_ILLEGAL` and nothing else (R92 (d), R97). -/
theorem exec_illegal {i : Instr} (h : i.wf = false) (s : State) : exec i s = .next (takeError s .illegal) := by
  cases i
  case edGenerate rd ra => simp only [exec, execEdGenerate, h, Bool.false_and]; exact command_illegal h s _
  all_goals exact command_illegal h s _

/-- Every command answers a completed state, from the state itself or, for `ED_GENERATE`, from the state after the
draw (R296). -/
theorem exec_complete (i : Instr) (s : State) :
    ∃ s0 effect, exec i s = .next (complete s0 effect) ∧
      (s0 = s ∨ (s0 = takeDraw s ∧ ∃ rd ra, i = .edGenerate rd ra)) := by
  cases i
  case edGenerate rd ra =>
    simp only [exec, execEdGenerate]
    split
    · exact ⟨_, _, rfl, .inr ⟨rfl, rd, ra, rfl⟩⟩
    · exact ⟨_, _, rfl, .inl rfl⟩
  all_goals exact ⟨_, _, rfl, .inl rfl⟩

/-- `GE_SELECT`'s range check in numbers: the two's complement digit −8 to 8 is a byte 0 to 8 or 248 to 255 (R93). -/
theorem selectArgOk_eq (s : State) : selectArgOk s = selectInRange s.arg.toNat := by
  unfold selectArgOk selectInRange argPos argDigit byteAt
  have h1 : (s.arg.extractLsb' 16 16 = 0#16) ↔ s.arg.toNat / 65536 = 0 := by
    rw [← BitVec.toNat_inj]; simp [BitVec.extractLsb'_toNat, Nat.shiftRight_eq_div_pow]; omega
  have h2 : (s.arg.extractLsb' (8 * 0) 8).toNat = s.arg.toNat % 256 := by simp [BitVec.extractLsb'_toNat]
  have h3 : (s.arg.extractLsb' (8 * 1) 8).toNat = s.arg.toNat / 256 % 256 := by
    simp [BitVec.extractLsb'_toNat, Nat.shiftRight_eq_div_pow]
  simp only [BitVec.toInt_eq_toNat_cond, h2, h3]
  rw [Bool.eq_iff_iff]
  simp only [Bool.and_eq_true, Bool.or_eq_true, decide_eq_true_eq, h1]
  have : s.arg.toNat / 256 % 256 < 256 := Nat.mod_lt _ (by norm_num)
  split <;> omega

end Sys2Proof.Machine
end

