-- ==== Sys2Proof/Laws/Prime.lean ====
section
/-! SUPPORT. p = 2^255 − 19 is prime (R3, R4), by Lucas certificates down to small primes.
-/
namespace Sys2Proof

/-- `a^n mod m` for an exponent of at most `k` bits, by square and multiply. -/
def powMod (m a : Nat) : Nat → Nat → Nat
  | 0, _ => 1 % m
  | k + 1, n =>
    let r := powMod m a k (n / 2)
    if n % 2 = 1 then r * r * a % m else r * r % m

theorem powMod_eq (m a : Nat) : ∀ k n : Nat, n < 2 ^ k → powMod m a k n = a ^ n % m
  | 0, n, h => by
    have : n = 0 := by simpa using h
    simp [powMod, this]
  | k + 1, n, h => by
    have ih := powMod_eq m a k (n / 2) (by omega)
    simp only [powMod, ih]
    have hn : n = 2 * (n / 2) + n % 2 := by omega
    have hsq : a ^ (n / 2) % m * (a ^ (n / 2) % m) ≡ a ^ (2 * (n / 2)) [MOD m] := by
      rw [two_mul, pow_add]; exact (Nat.mod_modEq _ _).mul (Nat.mod_modEq _ _)
    split
    · rename_i hodd
      conv_rhs => rw [hn, hodd, pow_succ]
      exact hsq.mul_right a
    · rename_i heven
      have h0 : n % 2 = 0 := by omega
      conv_rhs => rw [hn, h0, Nat.add_zero]
      exact hsq

/-- A Lucas certificate: `a` has order p − 1 mod p. -/
theorem prime_of_certificate (p a : Nat) (factors : List Nat) (hp : 1 < p) (hs : p < 2 ^ 256)
    (hprod : factors.prod = p - 1) (hprime : ∀ q ∈ factors, q.Prime) (hone : powMod p a 256 (p - 1) = 1)
    (hne : ∀ q ∈ factors, powMod p a 256 ((p - 1) / q) ≠ 1) : p.Prime := by
  have hcast : ∀ n, n < 2 ^ 256 → ((a : ZMod p) ^ n = 1 ↔ powMod p a 256 n = 1) := by
    intro n hn
    rw [powMod_eq p a 256 n hn]
    have h1 : (1 : ZMod p) = ((1 : Nat) : ZMod p) := by simp
    rw [h1, ← Nat.cast_pow, ZMod.natCast_eq_natCast_iff]
    unfold Nat.ModEq
    rw [Nat.mod_eq_of_lt hp]
  refine lucas_primality p (a : ZMod p) ((hcast _ (by omega)).mpr hone) ?_
  intro q hq hdvd h
  rw [← hprod] at hdvd
  obtain ⟨r, hr, hqr⟩ := (Prime.dvd_prod_iff hq.prime).mp hdvd
  have : q = r := (Nat.prime_dvd_prime_iff_eq hq (hprime r hr)).mp hqr
  subst this
  exact hne q hr ((hcast _ (lt_of_le_of_lt (Nat.div_le_self _ _) (by omega))).mp h)

theorem certificate_0 : Nat.Prime 2773320623 := by
  refine prime_of_certificate 2773320623 5 [2, 2437, 569003] (by norm_num) (by norm_num) (by norm_num) ?_ (by decide +kernel) (by decide +kernel)
  intro q hq
  fin_cases hq
  · norm_num
  · norm_num
  · norm_num

theorem certificate_1 : Nat.Prime 72106336199 := by
  refine prime_of_certificate 72106336199 7 [2, 13, 2773320623] (by norm_num) (by norm_num) (by norm_num) ?_ (by decide +kernel) (by decide +kernel)
  intro q hq
  fin_cases hq
  · norm_num
  · norm_num
  · exact certificate_0

theorem certificate_2 : Nat.Prime 1919519569386763 := by
  refine prime_of_certificate 1919519569386763 2 [2, 3, 7, 19, 47, 47, 127, 8574133] (by norm_num) (by norm_num) (by norm_num) ?_ (by decide +kernel) (by decide +kernel)
  intro q hq
  fin_cases hq
  · norm_num
  · norm_num
  · norm_num
  · norm_num
  · norm_num
  · norm_num
  · norm_num
  · norm_num

theorem certificate_3 : Nat.Prime 75445702479781427272750846543864801 := by
  refine prime_of_certificate 75445702479781427272750846543864801 7 [2, 2, 2, 2, 2, 3, 3, 5, 5, 75707, 72106336199, 1919519569386763] (by norm_num) (by norm_num) (by norm_num) ?_ (by decide +kernel) (by decide +kernel)
  intro q hq
  fin_cases hq
  · norm_num
  · norm_num
  · norm_num
  · norm_num
  · norm_num
  · norm_num
  · norm_num
  · norm_num
  · norm_num
  · norm_num
  · exact certificate_1
  · exact certificate_2

theorem certificate_4 : Nat.Prime 31757755568855353 := by
  refine prime_of_certificate 31757755568855353 10 [2, 2, 2, 3, 31, 107, 223, 4153, 430751] (by norm_num) (by norm_num) (by norm_num) ?_ (by decide +kernel) (by decide +kernel)
  intro q hq
  fin_cases hq
  · norm_num
  · norm_num
  · norm_num
  · norm_num
  · norm_num
  · norm_num
  · norm_num
  · norm_num
  · norm_num

theorem certificate_5 : Nat.Prime 74058212732561358302231226437062788676166966415465897661863160754340907 := by
  refine prime_of_certificate 74058212732561358302231226437062788676166966415465897661863160754340907 2 [2, 3, 353, 57467, 132049, 1923133, 31757755568855353, 75445702479781427272750846543864801] (by norm_num) (by norm_num) (by norm_num) ?_ (by decide +kernel) (by decide +kernel)
  intro q hq
  fin_cases hq
  · norm_num
  · norm_num
  · norm_num
  · norm_num
  · norm_num
  · norm_num
  · exact certificate_4
  · exact certificate_3

/-- p is prime (R3). -/
theorem prime25519_prime : Nat.Prime prime25519 := by
  refine prime_of_certificate prime25519 2 [2, 2, 3, 65147, 74058212732561358302231226437062788676166966415465897661863160754340907] (by norm_num) (by norm_num) (by norm_num) ?_ (by decide +kernel) (by decide +kernel)
  intro q hq
  fin_cases hq
  · norm_num
  · norm_num
  · norm_num
  · norm_num
  · exact certificate_5

end Sys2Proof
end

