-- ==== Sys2Proof/Laws/Field.lean ====
section
/-! SUPPORT. The field values as a commutative ring and a field: every function of 41_field.md in ring terms, so
that `ring` and `linear_combination` apply under `open scoped Fin.CommRing` (R130).
-/
namespace Sys2Proof.Machine
open scoped Fin.CommRing

/-! ## Values -/

theorem feOfNat_val (n : Nat) : (feOfNat n).val = n % prime25519 := rfl
theorem fe_add_val (a b : Fe) : (a + b).val = (a.val + b.val) % prime25519 := Fin.val_add a b
theorem fe_mul_val (a b : Fe) : (a * b).val = a.val * b.val % prime25519 := Fin.val_mul a b
theorem fe_ext {a b : Fe} (h : a.val = b.val) : a = b := Fin.ext h

theorem feOfNat_of_val (a : Fe) : feOfNat a.val = a := fe_ext (Nat.mod_eq_of_lt a.isLt)

theorem feOfNat_add (m n : Nat) : feOfNat (m + n) = feOfNat m + feOfNat n :=
  fe_ext (by simp [feOfNat_val, fe_add_val, Nat.add_mod])

theorem feOfNat_mul (m n : Nat) : feOfNat (m * n) = feOfNat m * feOfNat n :=
  fe_ext (by simp [feOfNat_val, fe_mul_val, Nat.mul_mod])

theorem feOfNat_eq_iff {m n : Nat} : feOfNat m = feOfNat n ↔ m % prime25519 = n % prime25519 := Fin.ext_iff

theorem feOfNat_prime : feOfNat prime25519 = 0 := fe_ext (by simp [feOfNat_val])

/-! ## Ring forms -/

theorem feSquare_eq (a : Fe) : feSquare a = a * a := rfl

theorem feSquareDouble_eq (a : Fe) : feSquareDouble a = a * a + a * a := by
  rw [feSquareDouble, two_mul, feOfNat_add, feOfNat_mul, feOfNat_of_val]

theorem feMulSmall_eq (a : Fe) (k : Nat) : feMulSmall a k = a * feOfNat k := by
  rw [feMulSmall, feOfNat_mul, feOfNat_of_val]

theorem feNegate_eq (a : Fe) : feNegate a = -a := by
  apply eq_neg_of_add_eq_zero_left
  conv_lhs => rw [← feOfNat_of_val a]
  rw [feNegate, feOfNat_val, Nat.mod_eq_of_lt a.isLt, ← feOfNat_add, Nat.sub_add_cancel (by omega), feOfNat_prime]

theorem fePowBits_eq (a : Fe) : ∀ k n : Nat, n < 2 ^ k → fePowBits a k n = a ^ n
  | 0, n, h => by
    have : n = 0 := by simpa using h
    subst this; rw [pow_zero]; rfl
  | k + 1, n, h => by
    have ih := fePowBits_eq a k (n / 2) (by omega)
    have hn : n = n / 2 + n / 2 + n % 2 := by omega
    simp only [fePowBits, ih]
    split
    · rename_i hodd
      conv_rhs => rw [hn, hodd, pow_succ, pow_add]
    · rename_i heven
      have h0 : n % 2 = 0 := by omega
      conv_rhs => rw [hn, h0, Nat.add_zero, pow_add]

/-- `a^n` for every exponent the engine uses (R141, R142). -/
theorem fePow_eq (a : Fe) {n : Nat} (h : n < 2 ^ 256) : fePow a n = a ^ n := fePowBits_eq a 256 n h

theorem feInvert_eq (a : Fe) : feInvert a = a ^ (prime25519 - 2) := fePow_eq a (by norm_num)
theorem fePow2523_eq (a : Fe) : fePow2523 a = a ^ ((prime25519 - 5) / 8) := fePow_eq a (by norm_num)

/-- The value of a power (R141, R142). -/
theorem fe_pow_val (a : Fe) : ∀ n : Nat, (a ^ n).val = a.val ^ n % prime25519
  | 0 => by rw [pow_zero, pow_zero]; rfl
  | n + 1 => by rw [pow_succ, fe_mul_val, fe_pow_val a n, pow_succ, Nat.mul_mod, Nat.mod_mod, ← Nat.mul_mod]

theorem feCswap_false (a b : Fe) : feCswap false a b = (a, b) := rfl
theorem feCswap_true (a b : Fe) : feCswap true a b = (b, a) := rfl

/-! ## The field (R130) -/

/-- Fermat's little theorem. -/
theorem fe_pow_prime_sub_one {a : Fe} (h : a ≠ 0) : a ^ (prime25519 - 1) = 1 := by
  have : Fact (Nat.Prime prime25519) := ⟨prime25519_prime⟩
  apply fe_ext
  rw [fe_pow_val]
  have hne : (a.val : ZMod prime25519) ≠ 0 := by
    intro h0
    rw [ZMod.natCast_eq_zero_iff] at h0
    exact h (fe_ext (by simpa using Nat.eq_zero_of_dvd_of_lt h0 a.isLt))
  have hf := ZMod.pow_card_sub_one_eq_one hne
  have h1 : (1 : ZMod prime25519) = ((1 : Nat) : ZMod prime25519) := by simp
  rw [h1, ← Nat.cast_pow, ZMod.natCast_eq_natCast_iff] at hf
  exact hf

theorem fe_invert_mul {a : Fe} (h : a ≠ 0) : a ^ (prime25519 - 2) * a = 1 := by
  rw [← pow_succ]; exact fe_pow_prime_sub_one h

/-- No zero divisors. -/
theorem fe_mul_eq_zero {a b : Fe} : a * b = 0 ↔ a = 0 ∨ b = 0 := by
  constructor
  · intro h
    by_cases ha : a = 0
    · exact .inl ha
    · right
      calc b = a ^ (prime25519 - 2) * a * b := by rw [fe_invert_mul ha, one_mul]
        _ = a ^ (prime25519 - 2) * (a * b) := by ring
        _ = 0 := by rw [h, mul_zero]
  · rintro (h | h) <;> simp [h]

/-! ## Byte strings and values (R134, R135) -/

theorem feEnc_toNat (v : Fe) : (feEnc v).toNat = v.val := by
  rw [feEnc, BitVec.toNat_ofNat]
  exact Nat.mod_eq_of_lt (lt_trans v.isLt (by norm_num))

theorem feDec_val (s : Bytes32) : (feDec s).val = s.toNat % 2 ^ 255 % prime25519 := rfl

/-- Decoding an encoded value gives it back. -/
theorem feDec_feEnc (v : Fe) : feDec (feEnc v) = v := by
  apply fe_ext
  rw [feDec_val, feEnc_toNat, Nat.mod_eq_of_lt (lt_trans v.isLt (by norm_num)), Nat.mod_eq_of_lt v.isLt]

end Sys2Proof.Machine
end

