-- ==== Sys2Proof/Laws/Group.lean ====
section
/-! SUPPORT. The constants of R4 as field elements, that d is no square, and the group formulas in ring terms
(R195, R201 to R205).
-/
namespace Sys2Proof.Machine
open scoped Fin.CommRing

/-! ## The constants (R4) -/

theorem constSqrtM1_sq : constSqrtM1 * constSqrtM1 = -1 := by decide +kernel
theorem constD2_eq : constD2 = constD + constD := by decide +kernel

/-- d^((p−1)/2) = −1. -/
theorem constD_pow : fePow constD ((prime25519 - 1) / 2) = -1 := by decide +kernel

theorem two_ne_zero_fe : (2 : Fe) ≠ 0 := by decide +kernel
theorem one_ne_neg_one_fe : (1 : Fe) ≠ -1 := by decide +kernel

/-- d is not a square (R211). -/
theorem constD_not_square (a : Fe) : a * a ≠ constD := by
  intro h
  have hp := constD_pow
  rw [fePow_eq _ (by norm_num), ← h] at hp
  by_cases ha : a = 0
  · subst ha
    have h0 : (constD : Fe) ≠ 0 := by decide +kernel
    exact h0 (by rw [← h]; ring)
  · have h2 : (a * a) ^ ((prime25519 - 1) / 2) = a ^ (prime25519 - 1) := by
      rw [← pow_two, ← pow_mul, show 2 * ((prime25519 - 1) / 2) = prime25519 - 1 by norm_num]
    rw [h2, fe_pow_prime_sub_one ha] at hp
    exact one_ne_neg_one_fe hp

/-! ## The formulas -/

theorem p2Dbl_eq (v : P2) :
    p2Dbl v =
      ⟨(v.x + v.y) * (v.x + v.y) - (v.y * v.y + v.x * v.x), v.y * v.y + v.x * v.x, v.y * v.y - v.x * v.x,
        v.z * v.z + v.z * v.z - (v.y * v.y - v.x * v.x)⟩ := by
  simp only [p2Dbl, feSquare_eq, feSquareDouble_eq]

theorem p3Negate_eq (v : P3) : p3Negate v = ⟨-v.x, v.y, v.z, -v.t⟩ := by
  simp only [p3Negate, feNegate_eq]

end Sys2Proof.Machine
end

