-- ==== Sys2Proof/Laws/GroupLaw.lean ====
section
/-! SUPPORT. The addition law of R195 as a group law, in the form `affineSum` without division: symmetric, with
a neutral element and negatives, single-valued and associative wherever its denominators are not zero.
-/
namespace Sys2Proof.Machine
open scoped Fin.CommRing

/-- Neither denominator of the law is zero at `a`, `b` (R195). -/
def lawDefined (a b : Affine) : Prop :=
  1 + constD * a.x * b.x * a.y * b.y ≠ 0 ∧ 1 - constD * a.x * b.x * a.y * b.y ≠ 0

theorem fe_mul_left_cancel {a b c : Fe} (ha : a ≠ 0) (h : a * b = a * c) : b = c := by
  have h0 : a * (b - c) = 0 := by linear_combination h
  rcases fe_mul_eq_zero.mp h0 with h0 | h0
  · exact absurd h0 ha
  · linear_combination h0

theorem fe_mul_ne_zero {a b : Fe} (ha : a ≠ 0) (hb : b ≠ 0) : a * b ≠ 0 := fun h =>
  (fe_mul_eq_zero.mp h).elim ha hb

/-! ## Symmetry, neutral element, negatives -/

theorem affineSum_comm {a b c : Affine} (h : affineSum a b c) : affineSum b a c := by
  obtain ⟨hx, hy⟩ := h
  exact ⟨by linear_combination hx, by linear_combination hy⟩

theorem lawDefined_comm {a b : Affine} (h : lawDefined a b) : lawDefined b a := by
  obtain ⟨h1, h2⟩ := h
  refine ⟨fun h => h1 ?_, fun h => h2 ?_⟩ <;> linear_combination h

theorem affineSum_neutral (q : Affine) : affineSum ⟨0, 1⟩ q q := ⟨by ring, by ring⟩

theorem lawDefined_neutral (q : Affine) : lawDefined ⟨0, 1⟩ q := by
  have h : ∀ e : Fe, 1 + e * 0 * q.x * 1 * q.y = 1 ∧ 1 - e * 0 * q.x * 1 * q.y = 1 := fun e => ⟨by ring, by ring⟩
  have h10 : (1 : Fe) ≠ 0 := by decide +kernel
  exact ⟨fun h0 => h10 ((h constD).1.symm.trans h0), fun h0 => h10 ((h constD).2.symm.trans h0)⟩

theorem onCurve_neutral : onCurve ⟨0, 1⟩ := by simp only [onCurve]; ring

theorem onCurve_affineNeg {q : Affine} (h : onCurve q) : onCurve (affineNeg q) := by
  simp only [onCurve, affineNeg] at *
  linear_combination h

theorem affineSum_affineNeg {q : Affine} (h : onCurve q) : affineSum q (affineNeg q) ⟨0, 1⟩ := by
  simp only [onCurve] at h
  simp only [affineSum, affineNeg]
  exact ⟨by ring, by linear_combination -h⟩

/-! ## Multiples -/

@[simp] theorem affineMulInt_natCast (q : Affine) (n : Nat) : affineMulInt q (n : Int) = affineMul q n := rfl

@[simp] theorem affineMulInt_negSucc (q : Affine) (n : Nat) :
    affineMulInt q (Int.negSucc n) = affineMul (affineNeg q) (n + 1) := rfl

/-! ## One sum at most -/

theorem affineSum_unique {a b c c' : Affine} (hd : lawDefined a b) (h : affineSum a b c) (h' : affineSum a b c') :
    c = c' := by
  obtain ⟨cx, cy⟩ := c
  obtain ⟨cx', cy'⟩ := c'
  have hx : cx = cx' := fe_mul_left_cancel hd.1 (by linear_combination h.1 - h'.1)
  have hy : cy = cy' := fe_mul_left_cancel hd.2 (by linear_combination h.2 - h'.2)
  rw [hx, hy]

/-- The quotients of `affineAdd` meet the law where it is defined. -/
theorem affineSum_affineAdd {a b : Affine} (hd : lawDefined a b) : affineSum a b (affineAdd a b) := by
  have h1 := fe_invert_mul hd.1
  have h2 := fe_invert_mul hd.2
  simp only [affineSum, affineAdd, feInvert_eq]
  generalize (1 + constD * a.x * b.x * a.y * b.y) ^ (prime25519 - 2) = i at *
  generalize (1 - constD * a.x * b.x * a.y * b.y) ^ (prime25519 - 2) = j at *
  exact ⟨by linear_combination (a.x * b.y + b.x * a.y) * h1, by linear_combination (a.y * b.y + a.x * b.x) * h2⟩

/-! ## Associativity

Both ways of adding three points, as fractions over a common denominator; the difference of the cross products
lies in the ideal of the three curve equations. -/

theorem assoc_x {d x1 y1 x2 y2 x3 y3 : Fe} (h1 : y1 * y1 - x1 * x1 = 1 + d * (x1 * x1) * (y1 * y1))
    (h2 : y2 * y2 - x2 * x2 = 1 + d * (x2 * x2) * (y2 * y2))
    (h3 : y3 * y3 - x3 * x3 = 1 + d * (x3 * x3) * (y3 * y3)) :
    ((x1 * y2 + x2 * y1) * (1 - d * x1 * x2 * y1 * y2) * y3 +
          (y1 * y2 + x1 * x2) * (1 + d * x1 * x2 * y1 * y2) * x3) *
        ((1 - d * x2 * x3 * y2 * y3) * (1 + d * x2 * x3 * y2 * y3) +
          d * (x2 * y3 + x3 * y2) * (y2 * y3 + x2 * x3) * x1 * y1) =
      (x1 * (y2 * y3 + x2 * x3) * (1 + d * x2 * x3 * y2 * y3) +
          y1 * (x2 * y3 + x3 * y2) * (1 - d * x2 * x3 * y2 * y3)) *
        ((1 - d * x1 * x2 * y1 * y2) * (1 + d * x1 * x2 * y1 * y2) +
          d * (x1 * y2 + x2 * y1) * (y1 * y2 + x1 * x2) * x3 * y3) := by
  linear_combination
    (- x1 * x2^4 * y2^3 * x3^2 * y3 * d^2 - x1 * x2^4 * y2 * x3^2 * y3 * d
      - x1 * x2^3 * y2^4 * x3 * y3^2 * d^2 - x1 * x2^3 * y2^2 * x3^3 * d - x1 * x2^3 * y2^2 * x3 * d
      + x1 * x2^2 * y2^3 * y3^3 * d - x1 * x2^2 * y2^3 * y3 * d + x1 * x2 * y2^4 * x3 * y3^2 * d
      + y1 * x2^4 * y2^3 * x3 * y3^2 * d^2 + y1 * x2^4 * y2 * x3 * y3^2 * d
      + y1 * x2^3 * y2^4 * x3^2 * y3 * d^2 + y1 * x2^3 * y2^2 * y3^3 * d - y1 * x2^3 * y2^2 * y3 * d
      - y1 * x2^2 * y2^3 * x3^3 * d - y1 * x2^2 * y2^3 * x3 * d - y1 * x2 * y2^4 * x3^2 * y3 * d) * h1 +
    (x1^3 * x2^2 * y2 * x3^2 * y3 * d + x1^3 * x2 * y2^2 * x3 * y3^2 * d
      - x1^2 * y1 * x2^2 * y2 * x3^3 * d - x1^2 * y1 * x2^2 * y2 * x3 * d
      - x1^2 * y1 * x2 * y2^2 * y3^3 * d + x1^2 * y1 * x2 * y2^2 * y3 * d
      - x1 * y1^2 * x2^2 * y2 * y3^3 * d + x1 * y1^2 * x2^2 * y2 * y3 * d
      - x1 * y1^2 * x2 * y2^2 * x3^3 * d - x1 * y1^2 * x2 * y2^2 * x3 * d + x1 * x2^2 * y2 * x3^2 * y3 * d
      + x1 * x2 * y2^2 * x3 * y3^2 * d + y1^3 * x2^2 * y2 * x3 * y3^2 * d
      + y1^3 * x2 * y2^2 * x3^2 * y3 * d - y1 * x2^2 * y2 * x3 * y3^2 * d - y1 * x2 * y2^2 * x3^2 * y3 * d) * h2 +
    (x1^3 * x2^3 * y2^2 * x3 * d + x1^3 * x2^2 * y2^3 * y3 * d + x1^2 * y1 * x2^4 * y2^3 * x3 * d^2
      + x1^2 * y1 * x2^4 * y2 * x3 * d - x1^2 * y1 * x2^3 * y2^4 * y3 * d^2
      + x1^2 * y1 * x2 * y2^4 * y3 * d - x1 * y1^2 * x2^4 * y2^3 * y3 * d^2
      - x1 * y1^2 * x2^4 * y2 * y3 * d + x1 * y1^2 * x2^3 * y2^4 * x3 * d^2
      - x1 * y1^2 * x2 * y2^4 * x3 * d + x1 * x2^3 * y2^2 * x3 * d + x1 * x2^2 * y2^3 * y3 * d
      - y1^3 * x2^3 * y2^2 * y3 * d - y1^3 * x2^2 * y2^3 * x3 * d + y1 * x2^3 * y2^2 * y3 * d
      + y1 * x2^2 * y2^3 * x3 * d) * h3

theorem assoc_y {d x1 y1 x2 y2 x3 y3 : Fe} (h1 : y1 * y1 - x1 * x1 = 1 + d * (x1 * x1) * (y1 * y1))
    (h2 : y2 * y2 - x2 * x2 = 1 + d * (x2 * x2) * (y2 * y2))
    (h3 : y3 * y3 - x3 * x3 = 1 + d * (x3 * x3) * (y3 * y3)) :
    ((y1 * y2 + x1 * x2) * (1 + d * x1 * x2 * y1 * y2) * y3 +
          (x1 * y2 + x2 * y1) * (1 - d * x1 * x2 * y1 * y2) * x3) *
        ((1 - d * x2 * x3 * y2 * y3) * (1 + d * x2 * x3 * y2 * y3) -
          d * (x2 * y3 + x3 * y2) * (y2 * y3 + x2 * x3) * x1 * y1) =
      (y1 * (y2 * y3 + x2 * x3) * (1 + d * x2 * x3 * y2 * y3) +
          x1 * (x2 * y3 + x3 * y2) * (1 - d * x2 * x3 * y2 * y3)) *
        ((1 - d * x1 * x2 * y1 * y2) * (1 + d * x1 * x2 * y1 * y2) -
          d * (x1 * y2 + x2 * y1) * (y1 * y2 + x1 * x2) * x3 * y3) := by
  linear_combination
    (x1 * x2^4 * y2^3 * x3 * y3^2 * d^2 + x1 * x2^4 * y2 * x3 * y3^2 * d
      + x1 * x2^3 * y2^4 * x3^2 * y3 * d^2 + x1 * x2^3 * y2^2 * y3^3 * d - x1 * x2^3 * y2^2 * y3 * d
      - x1 * x2^2 * y2^3 * x3^3 * d - x1 * x2^2 * y2^3 * x3 * d - x1 * x2 * y2^4 * x3^2 * y3 * d
      - y1 * x2^4 * y2^3 * x3^2 * y3 * d^2 - y1 * x2^4 * y2 * x3^2 * y3 * d
      - y1 * x2^3 * y2^4 * x3 * y3^2 * d^2 - y1 * x2^3 * y2^2 * x3^3 * d - y1 * x2^3 * y2^2 * x3 * d
      + y1 * x2^2 * y2^3 * y3^3 * d - y1 * x2^2 * y2^3 * y3 * d + y1 * x2 * y2^4 * x3 * y3^2 * d) * h1 +
    (- x1^3 * x2^2 * y2 * x3 * y3^2 * d - x1^3 * x2 * y2^2 * x3^2 * y3 * d
      + x1^2 * y1 * x2^2 * y2 * y3^3 * d - x1^2 * y1 * x2^2 * y2 * y3 * d
      + x1^2 * y1 * x2 * y2^2 * x3^3 * d + x1^2 * y1 * x2 * y2^2 * x3 * d
      + x1 * y1^2 * x2^2 * y2 * x3^3 * d + x1 * y1^2 * x2^2 * y2 * x3 * d
      + x1 * y1^2 * x2 * y2^2 * y3^3 * d - x1 * y1^2 * x2 * y2^2 * y3 * d - x1 * x2^2 * y2 * x3 * y3^2 * d
      - x1 * x2 * y2^2 * x3^2 * y3 * d - y1^3 * x2^2 * y2 * x3^2 * y3 * d
      - y1^3 * x2 * y2^2 * x3 * y3^2 * d + y1 * x2^2 * y2 * x3^2 * y3 * d + y1 * x2 * y2^2 * x3 * y3^2 * d) * h2 +
    (x1^3 * x2^3 * y2^2 * y3 * d + x1^3 * x2^2 * y2^3 * x3 * d + x1^2 * y1 * x2^4 * y2^3 * y3 * d^2
      + x1^2 * y1 * x2^4 * y2 * y3 * d - x1^2 * y1 * x2^3 * y2^4 * x3 * d^2
      + x1^2 * y1 * x2 * y2^4 * x3 * d - x1 * y1^2 * x2^4 * y2^3 * x3 * d^2
      - x1 * y1^2 * x2^4 * y2 * x3 * d + x1 * y1^2 * x2^3 * y2^4 * y3 * d^2
      - x1 * y1^2 * x2 * y2^4 * y3 * d + x1 * x2^3 * y2^2 * y3 * d + x1 * x2^2 * y2^3 * x3 * d
      - y1^3 * x2^3 * y2^2 * x3 * d - y1^3 * x2^2 * y2^3 * y3 * d + y1 * x2^3 * y2^2 * x3 * d
      + y1 * x2^2 * y2^3 * y3 * d) * h3

/-- (a + b) + c = a + (b + c) on the curve, where the four sums are defined (R195). -/
theorem affineSum_assoc {a b c ab bc l r : Affine} (ha : onCurve a) (hb : onCurve b) (hc : onCurve c)
    (dab : lawDefined a b) (dbc : lawDefined b c) (dl : lawDefined ab c) (dr : lawDefined a bc)
    (hab : affineSum a b ab) (hbc : affineSum b c bc) (hl : affineSum ab c l) (hr : affineSum a bc r) : l = r := by
  obtain ⟨x1, y1⟩ := a
  obtain ⟨x2, y2⟩ := b
  obtain ⟨x3, y3⟩ := c
  obtain ⟨p, q⟩ := ab
  obtain ⟨u, v⟩ := bc
  obtain ⟨lx, ly⟩ := l
  obtain ⟨rx, ry⟩ := r
  simp only [onCurve, affineSum, lawDefined] at *
  obtain ⟨hp, hq⟩ := hab
  obtain ⟨hu, hv⟩ := hbc
  have ax := assoc_x ha hb hc
  have ay := assoc_y ha hb hc
  have eL := fe_mul_ne_zero dab.1 dab.2
  have eR := fe_mul_ne_zero dbc.1 dbc.2
  rw [← hp, ← hq, ← hu, ← hv] at ax ay
  generalize 1 + constD * x1 * x2 * y1 * y2 = g at *
  generalize 1 - constD * x1 * x2 * y1 * y2 = f at *
  generalize 1 + constD * x2 * x3 * y2 * y3 = g' at *
  generalize 1 - constD * x2 * x3 * y2 * y3 = f' at *
  have hx : lx = rx := by
    refine fe_mul_left_cancel (fe_mul_ne_zero (fe_mul_ne_zero eL eR) (fe_mul_ne_zero dl.1 dr.1)) ?_
    linear_combination ax + g * f * g' * f' * ((1 + constD * x1 * u * y1 * v) * hl.1 - (1 + constD * p * x3 * q * y3) * hr.1)
  have hy : ly = ry := by
    refine fe_mul_left_cancel (fe_mul_ne_zero (fe_mul_ne_zero eL eR) (fe_mul_ne_zero dl.2 dr.2)) ?_
    linear_combination ay + g * f * g' * f' * ((1 - constD * x1 * u * y1 * v) * hl.2 - (1 - constD * p * x3 * q * y3) * hr.2)
  rw [hx, hy]

end Sys2Proof.Machine
end

