-- ==== Sys2Proof/Laws/Limbs.lean ====
section
/-! SUPPORT. The small lemmas of the limb datapath: reading a limb after a write, and bounds of products and terms
of tight patterns (R161, R162, R167).
-/
namespace Sys2Proof.Machine

/-! ## Limbs -/

@[simp] theorem limbAt_limbsOf (v : Nat → Int) {i : Nat} (h : i < 10) : limbAt (limbsOf v) i = v i := by
  interval_cases i <;> rfl

@[simp] theorem limbAt_setLimb (h : Limbs) {i : Nat} (v : Int) (j : Nat) (hi : i < 10) :
    limbAt (setLimb h i v) j = if j = i then v else limbAt h j := by
  rcases Nat.lt_or_ge j 10 with hj | hj
  · interval_cases i <;> interval_cases j <;> rfl
  · obtain ⟨k, rfl⟩ := Nat.exists_eq_add_of_le' hj
    rw [if_neg (by omega)]
    interval_cases i <;> rfl

theorem limbsOf_limbAt (h : Limbs) : limbsOf (limbAt h) = h := rfl

/-! ## Bounds -/

/-- A bound of R172 from a bound by a number. -/
theorem belowPow2_of_le {v b : Int} {n : Nat} (hv : |v| ≤ b) (hb : b ^ 100 < 2 ^ n) : belowPow2 v n :=
  lt_of_le_of_lt (pow_le_pow_left₀ (abs_nonneg v) hv 100) hb

theorem limbBound_le (i : Nat) : limbBound i ≤ 33889976 := by
  unfold limbBound; split <;> decide

theorem limbBound_pos (i : Nat) : 0 < limbBound i := by
  unfold limbBound; split <;> decide

/-- A product of two tight limbs (R172). -/
theorem abs_mul_le_of_tight {f g : Limbs} (hf : tight f) (hg : tight g) {i j : Nat} (hi : i < 10) (hj : j < 10) :
    |limbAt f i * limbAt g j| ≤ limbBound i * limbBound j := by
  rw [abs_mul]
  exact mul_le_mul (hf i hi) (hg j hj) (abs_nonneg _) (limbBound_pos i).le

/-- A term is its product times a factor of at most 38 (R167). -/
theorem abs_mulTerm_le (f g : Limbs) (i j : Nat) : |mulTerm f g i j| ≤ 38 * |limbAt f i * limbAt g j| := by
  have h := abs_nonneg (limbAt f i * limbAt g j)
  simp only [mulTerm]
  split <;> split <;> simp only [abs_mul, Nat.abs_ofNat] at * <;> omega

end Sys2Proof.Machine
end

