-- ==== Sys2Proof/Laws/Memory.lean ====
section
/-! SUPPORT. The message RAM: reading after writing, and that every memory operation keeps the canonical form
and the range of addresses (log entry 8).
-/
namespace Sys2Proof.Machine

theorem memWfFrom_mono {lo hi : Nat} (h : lo ≤ hi) : ∀ {m : Memory}, memWfFrom hi m = true → memWfFrom lo m = true
  | [], _ => rfl
  | (k, v) :: rest, hm => by
    simp only [memWfFrom, Bool.and_eq_true, decide_eq_true_eq] at hm ⊢
    exact ⟨⟨by omega, hm.1.2⟩, hm.2⟩

/-- An address below every listed one reads as 0. -/
theorem memRead_below {lo a : Nat} (ha : a < lo) : ∀ {m : Memory}, memWfFrom lo m = true → memRead m a = 0#8
  | [], _ => rfl
  | (k, v) :: rest, hm => by
    simp only [memWfFrom, Bool.and_eq_true, decide_eq_true_eq] at hm
    have hk : k ≠ a := by omega
    simp only [memRead, hk, if_false]
    exact memRead_below (by omega) hm.2

/-- A write keeps the canonical form (log entry 8). -/
theorem memWrite_wfFrom {lo a : Nat} (v : Byte) (ha : lo ≤ a) :
    ∀ {m : Memory}, memWfFrom lo m = true → memWfFrom lo (memWrite m a v) = true
  | [], _ => by
    unfold memWrite
    split
    · rfl
    · rename_i hv; simp [memWfFrom, ha, hv]
  | (k, w) :: rest, hm => by
    have hm' := hm
    simp only [memWfFrom, Bool.and_eq_true, decide_eq_true_eq] at hm
    unfold memWrite
    split
    · split
      · exact hm'
      · rename_i hlt hv
        simp only [memWfFrom, Bool.and_eq_true, decide_eq_true_eq]
        exact ⟨⟨ha, hv⟩, ⟨by omega, hm.1.2⟩, hm.2⟩
    · split
      · rename_i hge heq
        subst heq
        split
        · exact memWfFrom_mono (by omega) hm.2
        · rename_i hv
          simp only [memWfFrom, Bool.and_eq_true, decide_eq_true_eq]
          exact ⟨⟨ha, hv⟩, hm.2⟩
      · simp only [memWfFrom, Bool.and_eq_true, decide_eq_true_eq]
        exact ⟨hm.1, memWrite_wfFrom v (by omega) hm.2⟩

/-- A write keeps the canonical form (log entry 8). -/
theorem memWrite_wf {m : Memory} (a : Nat) (v : Byte) (hm : Memory.wf m = true) : Memory.wf (memWrite m a v) = true :=
  memWrite_wfFrom v (Nat.zero_le a) hm

/-- A word write keeps the canonical form. -/
theorem memWriteWord_wf {m : Memory} (a : Nat) (v : Word) (hm : Memory.wf m = true) :
    Memory.wf (memWriteWord m a v) = true :=
  memWrite_wf _ _ (memWrite_wf _ _ (memWrite_wf _ _ (memWrite_wf _ _ hm)))

/-- The written byte reads back. -/
theorem memRead_memWrite_same {lo a : Nat} (v : Byte) :
    ∀ {m : Memory}, memWfFrom lo m = true → memRead (memWrite m a v) a = v
  | [], _ => by
    unfold memWrite
    split
    · rename_i hv; simp [memRead, hv]
    · simp [memRead]
  | (k, w) :: rest, hm => by
    have hm' := hm
    simp only [memWfFrom, Bool.and_eq_true, decide_eq_true_eq] at hm
    unfold memWrite
    split
    · rename_i hlt
      split
      · rename_i hv
        have : k ≠ a := by omega
        simp only [memRead, this, if_false, hv]
        exact memRead_below (by omega) hm.2
      · simp [memRead]
    · split
      · rename_i hge heq
        subst heq
        split
        · rename_i hv; rw [hv]; exact memRead_below (by omega) hm.2
        · simp [memRead]
      · rename_i hge hne
        have : k ≠ a := fun e => hne e.symm
        simp only [memRead, this, if_false]
        exact memRead_memWrite_same v hm.2

/-- Every other byte reads as before. -/
theorem memRead_memWrite_other {lo a c : Nat} (v : Byte) (hc : c ≠ a) :
    ∀ {m : Memory}, memWfFrom lo m = true → memRead (memWrite m a v) c = memRead m c
  | [], _ => by
    unfold memWrite
    split
    · rfl
    · simp [memRead, hc.symm]
  | (k, w) :: rest, hm => by
    simp only [memWfFrom, Bool.and_eq_true, decide_eq_true_eq] at hm
    unfold memWrite
    split
    · split
      · rfl
      · simp only [memRead, hc.symm, if_false]
    · split
      · rename_i hge heq
        subst heq
        split
        · simp only [memRead, hc.symm, if_false]
        · simp only [memRead, hc.symm, if_false]
      · simp only [memRead]
        split
        · rfl
        · exact memRead_memWrite_other v hc hm.2

/-- A write to an address of the RAM keeps every listed address in the RAM (R37). -/
theorem memWrite_inRam {a : Nat} (v : Byte) (ha : a < Config.msgBytes) :
    ∀ {m : Memory}, memInRam m = true → memInRam (memWrite m a v) = true
  | [], _ => by
    unfold memWrite
    split
    · rfl
    · simpa [memInRam] using ha
  | (k, w) :: rest, hm => by
    simp only [memInRam, List.all_cons, Bool.and_eq_true, decide_eq_true_eq] at hm
    unfold memWrite
    split
    · split <;> simp [memInRam, hm.1, hm.2, ha]
    · split
      · split <;> simp [memInRam, hm.2, ha]
      · have ih := memWrite_inRam v ha (m := rest) hm.2
        simp only [memInRam, List.all_cons, Bool.and_eq_true, decide_eq_true_eq]
        exact ⟨hm.1, ih⟩

/-- An aligned word write inside the RAM keeps every listed address in the RAM. -/
theorem memWriteWord_inRam {m : Memory} {a : Nat} (v : Word) (ha : a + 3 < Config.msgBytes)
    (hm : memInRam m = true) : memInRam (memWriteWord m a v) = true :=
  memWrite_inRam _ ha (memWrite_inRam _ (by omega) (memWrite_inRam _ (by omega) (memWrite_inRam _ (by omega) hm)))

/-- Byte `i` of a written word reads back as byte `i` of its value (R62). -/
theorem memRead_memWriteWord_same {m : Memory} {a i : Nat} (v : Word) (hi : i < 4) (hm : Memory.wf m = true) :
    memRead (memWriteWord m a v) (a + i) = byteAt v i := by
  have h0 := memWrite_wf a (byteAt v 0) hm
  have h1 := memWrite_wf (a + 1) (byteAt v 1) h0
  have h2 := memWrite_wf (a + 2) (byteAt v 2) h1
  unfold memWriteWord
  match i, hi with
  | 0, _ =>
    rw [memRead_memWrite_other _ (by omega) h2, memRead_memWrite_other _ (by omega) h1,
      memRead_memWrite_other _ (by omega) h0]
    exact memRead_memWrite_same _ hm
  | 1, _ =>
    rw [memRead_memWrite_other _ (by omega) h2, memRead_memWrite_other _ (by omega) h1]
    exact memRead_memWrite_same _ h0
  | 2, _ =>
    rw [memRead_memWrite_other _ (by omega) h2]
    exact memRead_memWrite_same _ h1
  | 3, _ => exact memRead_memWrite_same _ h2

/-- Every byte outside a written word reads as before. -/
theorem memRead_memWriteWord_other {m : Memory} {a c : Nat} (v : Word) (hc : c < a ∨ a + 4 ≤ c)
    (hm : Memory.wf m = true) : memRead (memWriteWord m a v) c = memRead m c := by
  have h0 := memWrite_wf a (byteAt v 0) hm
  have h1 := memWrite_wf (a + 1) (byteAt v 1) h0
  have h2 := memWrite_wf (a + 2) (byteAt v 2) h1
  unfold memWriteWord
  rw [memRead_memWrite_other _ (by omega) h2, memRead_memWrite_other _ (by omega) h1,
    memRead_memWrite_other _ (by omega) h0, memRead_memWrite_other _ (by omega) hm]

end Sys2Proof.Machine
end

