-- ==== Sys2Proof/Laws/PerInstr.lean ====
section
/-! SUPPORT. Statements made per instruction: the low byte of an encoded command is its opcode in R96.
-/
namespace Sys2Proof.Laws.OpcodeByte

/-- Bits 7:0 of the command's word are the opcode of its row (R90, R96). -/
def Statement (i : Instr) : Prop := (encode i).extractLsb' 0 8 = i.opcode

theorem nop : Statement .nop := commandWord_opcode _ _ _ _ _
theorem wipeAll : Statement .wipeAll := commandWord_opcode _ _ _ _ _
theorem feWipe (rd : Reg) : Statement (.feWipe rd) := commandWord_opcode _ _ _ _ _
theorem geWipe (rd : Reg) : Statement (.geWipe rd) := commandWord_opcode _ _ _ _ _
theorem bWipe (rd : Reg) : Statement (.bWipe rd) := commandWord_opcode _ _ _ _ _
theorem feZero (rd : Reg) : Statement (.feZero rd) := commandWord_opcode _ _ _ _ _
theorem feOne (rd : Reg) : Statement (.feOne rd) := commandWord_opcode _ _ _ _ _
theorem feFromBytes (rd ra : Reg) : Statement (.feFromBytes rd ra) := commandWord_opcode _ _ _ _ _
theorem feToBytes (rd ra : Reg) : Statement (.feToBytes rd ra) := commandWord_opcode _ _ _ _ _
theorem feAdd (rd ra rb : Reg) : Statement (.feAdd rd ra rb) := commandWord_opcode _ _ _ _ _
theorem feSub (rd ra rb : Reg) : Statement (.feSub rd ra rb) := commandWord_opcode _ _ _ _ _
theorem feMul (rd ra rb : Reg) : Statement (.feMul rd ra rb) := commandWord_opcode _ _ _ _ _
theorem feSq (rd ra : Reg) : Statement (.feSq rd ra) := commandWord_opcode _ _ _ _ _
theorem feSq2 (rd ra : Reg) : Statement (.feSq2 rd ra) := commandWord_opcode _ _ _ _ _
theorem feMulSmall (rd ra : Reg) : Statement (.feMulSmall rd ra) := commandWord_opcode _ _ _ _ _
theorem feInvert (rd ra : Reg) : Statement (.feInvert rd ra) := commandWord_opcode _ _ _ _ _
theorem fePow2523 (rd ra : Reg) : Statement (.fePow2523 rd ra) := commandWord_opcode _ _ _ _ _
theorem feIsNeg (ra : Reg) : Statement (.feIsNeg ra) := commandWord_opcode _ _ _ _ _
theorem feIsNz (ra : Reg) : Statement (.feIsNz ra) := commandWord_opcode _ _ _ _ _
theorem feNeg (rd ra : Reg) : Statement (.feNeg rd ra) := commandWord_opcode _ _ _ _ _
theorem feCswap (ra rb : Reg) : Statement (.feCswap ra rb) := commandWord_opcode _ _ _ _ _
theorem scReduce (rd : Reg) : Statement (.scReduce rd) := commandWord_opcode _ _ _ _ _
theorem scMuladd (rd ra rb rc : Reg) : Statement (.scMuladd rd ra rb rc) := commandWord_opcode _ _ _ _ _
theorem scCheckLtL (ra : Reg) : Statement (.scCheckLtL ra) := commandWord_opcode _ _ _ _ _
theorem geIdent (rd : Reg) : Statement (.geIdent rd) := commandWord_opcode _ _ _ _ _
theorem geP3ToCached (rd ra : Reg) : Statement (.geP3ToCached rd ra) := commandWord_opcode _ _ _ _ _
theorem geP3ToP2 (rd ra : Reg) : Statement (.geP3ToP2 rd ra) := commandWord_opcode _ _ _ _ _
theorem geP1p1ToP2 (rd ra : Reg) : Statement (.geP1p1ToP2 rd ra) := commandWord_opcode _ _ _ _ _
theorem geP1p1ToP3 (rd ra : Reg) : Statement (.geP1p1ToP3 rd ra) := commandWord_opcode _ _ _ _ _
theorem geAdd (rd ra rb : Reg) : Statement (.geAdd rd ra rb) := commandWord_opcode _ _ _ _ _
theorem geSub (rd ra rb : Reg) : Statement (.geSub rd ra rb) := commandWord_opcode _ _ _ _ _
theorem geMadd (rd ra rb : Reg) : Statement (.geMadd rd ra rb) := commandWord_opcode _ _ _ _ _
theorem geMsub (rd ra rb : Reg) : Statement (.geMsub rd ra rb) := commandWord_opcode _ _ _ _ _
theorem geP2Dbl (rd ra : Reg) : Statement (.geP2Dbl rd ra) := commandWord_opcode _ _ _ _ _
theorem geP3Dbl (rd ra : Reg) : Statement (.geP3Dbl rd ra) := commandWord_opcode _ _ _ _ _
theorem geEncode (rd ra : Reg) : Statement (.geEncode rd ra) := commandWord_opcode _ _ _ _ _
theorem geDecode (rd ra : Reg) : Statement (.geDecode rd ra) := commandWord_opcode _ _ _ _ _
theorem geDecodeNeg (rd ra : Reg) : Statement (.geDecodeNeg rd ra) := commandWord_opcode _ _ _ _ _
theorem geSelect (rd : Reg) : Statement (.geSelect rd) := commandWord_opcode _ _ _ _ _
theorem geLoadBi (rd : Reg) : Statement (.geLoadBi rd) := commandWord_opcode _ _ _ _ _
theorem geScalarmultBase (rd ra : Reg) : Statement (.geScalarmultBase rd ra) := commandWord_opcode _ _ _ _ _
theorem geDoubleScalarmultVt (rd ra rb rc : Reg) : Statement (.geDoubleScalarmultVt rd ra rb rc) := commandWord_opcode _ _ _ _ _
theorem x25519 (rd ra rb : Reg) : Statement (.x25519 rd ra rb) := commandWord_opcode _ _ _ _ _
theorem x25519Base (rd ra : Reg) : Statement (.x25519Base rd ra) := commandWord_opcode _ _ _ _ _
theorem edFromSeed (rd ra rb : Reg) : Statement (.edFromSeed rd ra rb) := commandWord_opcode _ _ _ _ _
theorem edFrom (rd ra rb : Reg) : Statement (.edFrom rd ra rb) := commandWord_opcode _ _ _ _ _
theorem edGenerate (rd ra : Reg) : Statement (.edGenerate rd ra) := commandWord_opcode _ _ _ _ _
theorem edSign (rd ra rb : Reg) : Statement (.edSign rd ra rb) := commandWord_opcode _ _ _ _ _
theorem edVerify (ra rb : Reg) : Statement (.edVerify ra rb) := commandWord_opcode _ _ _ _ _

end Sys2Proof.Laws.OpcodeByte
end

