-- ==== Sys2Proof/Laws/PrimeOrder.lean ====
section
/-! SUPPORT. The group order ℓ is prime (R4), by Lucas certificates down to small primes.
-/
namespace Sys2Proof.Machine

theorem order_certificate_0 : Nat.Prime 1257559732178653 := by
  refine prime_of_certificate 1257559732178653 2 [2, 2, 3, 7, 23, 531581, 1224481] (by norm_num) (by norm_num)
    (by norm_num) ?_ (by decide +kernel) (by decide +kernel)
  intro q hq
  fin_cases hq
  · norm_num
  · norm_num
  · norm_num
  · norm_num
  · norm_num
  · norm_num
  · norm_num

theorem order_certificate_1 : Nat.Prime 4434155615661930479 := by
  refine prime_of_certificate 4434155615661930479 17 [2, 41, 43, 1257559732178653] (by norm_num) (by norm_num)
    (by norm_num) ?_ (by decide +kernel) (by decide +kernel)
  intro q hq
  fin_cases hq
  · norm_num
  · norm_num
  · norm_num
  · exact order_certificate_0

theorem order_certificate_2 : Nat.Prime 172054593956031949258510691 := by
  refine prime_of_certificate 172054593956031949258510691 2 [2, 5, 1361, 2851, 4434155615661930479] (by norm_num) (by norm_num)
    (by norm_num) ?_ (by decide +kernel) (by decide +kernel)
  intro q hq
  fin_cases hq
  · norm_num
  · norm_num
  · norm_num
  · norm_num
  · exact order_certificate_1

theorem order_certificate_3 : Nat.Prime 292386187 := by
  refine prime_of_certificate 292386187 2 [2, 3, 3, 3, 3, 307, 5879] (by norm_num) (by norm_num)
    (by norm_num) ?_ (by decide +kernel) (by decide +kernel)
  intro q hq
  fin_cases hq
  · norm_num
  · norm_num
  · norm_num
  · norm_num
  · norm_num
  · norm_num
  · norm_num

theorem order_certificate_4 : Nat.Prime 213441916511 := by
  refine prime_of_certificate 213441916511 13 [2, 5, 73, 292386187] (by norm_num) (by norm_num)
    (by norm_num) ?_ (by decide +kernel) (by decide +kernel)
  intro q hq
  fin_cases hq
  · norm_num
  · norm_num
  · norm_num
  · exact order_certificate_3

theorem order_certificate_5 : Nat.Prime 19757330305831588566944191468367130476339 := by
  refine prime_of_certificate 19757330305831588566944191468367130476339 2 [2, 269, 213441916511, 172054593956031949258510691] (by norm_num) (by norm_num)
    (by norm_num) ?_ (by decide +kernel) (by decide +kernel)
  intro q hq
  fin_cases hq
  · norm_num
  · norm_num
  · exact order_certificate_4
  · exact order_certificate_2

theorem order_certificate_6 : Nat.Prime 276602624281642239937218680557139826668747 := by
  refine prime_of_certificate 276602624281642239937218680557139826668747 2 [2, 7, 19757330305831588566944191468367130476339] (by norm_num) (by norm_num)
    (by norm_num) ?_ (by decide +kernel) (by decide +kernel)
  intro q hq
  fin_cases hq
  · norm_num
  · norm_num
  · exact order_certificate_5

theorem order_certificate_7 : Nat.Prime 14741173 := by
  refine prime_of_certificate 14741173 2 [2, 2, 3, 3, 409477] (by norm_num) (by norm_num)
    (by norm_num) ?_ (by decide +kernel) (by decide +kernel)
  intro q hq
  fin_cases hq
  · norm_num
  · norm_num
  · norm_num
  · norm_num
  · norm_num

theorem order_certificate_8 : Nat.Prime 58964693 := by
  refine prime_of_certificate 58964693 2 [2, 2, 14741173] (by norm_num) (by norm_num)
    (by norm_num) ?_ (by decide +kernel) (by decide +kernel)
  intro q hq
  fin_cases hq
  · norm_num
  · norm_num
  · exact order_certificate_7

theorem order_certificate_9 : Nat.Prime 3044861653679985063343 := by
  refine prime_of_certificate 3044861653679985063343 5 [2, 3, 11, 30703, 82163, 132667, 137849] (by norm_num) (by norm_num)
    (by norm_num) ?_ (by decide +kernel) (by decide +kernel)
  intro q hq
  fin_cases hq
  · norm_num
  · norm_num
  · norm_num
  · norm_num
  · norm_num
  · norm_num
  · norm_num

theorem order_certificate_10 : Nat.Prime 198211423230930754013084525763697 := by
  refine prime_of_certificate 198211423230930754013084525763697 5 [2, 2, 2, 2, 3, 23, 58964693, 3044861653679985063343] (by norm_num) (by norm_num)
    (by norm_num) ?_ (by decide +kernel) (by decide +kernel)
  intro q hq
  fin_cases hq
  · norm_num
  · norm_num
  · norm_num
  · norm_num
  · norm_num
  · norm_num
  · exact order_certificate_8
  · exact order_certificate_9

/-- ℓ is prime (R4). -/
theorem groupOrder_prime : Nat.Prime groupOrder := by
  refine prime_of_certificate groupOrder 2 [2, 2, 3, 11, 198211423230930754013084525763697, 276602624281642239937218680557139826668747] (by norm_num [groupOrder]) (by norm_num [groupOrder])
    (by norm_num [groupOrder]) ?_ (by decide +kernel) (by decide +kernel)
  intro q hq
  fin_cases hq
  · norm_num
  · norm_num
  · norm_num
  · norm_num
  · exact order_certificate_10
  · exact order_certificate_6

end Sys2Proof.Machine
end

