-- ==== Sys2Proof/Tests/Slice0.lean ====
section
/-! SUPPORT. The model's own tests: ill-formed terms that the check refuses, the command words of the spec, one step
of every command on small states, and a witness for the hypotheses of every statement. Expected values are those
that spec/95_test_vectors.md and spec/96_test_vectors_2.md print (V-…, P…) or the words of spec/30_encoding.md.
-/
open Sys2Proof Sys2Proof.Machine
namespace Sys2Proof.Tests
set_option Elab.async false

/-! ## Helpers -/

/-- A 32-byte string as the spec prints it, byte 0 first. -/
def hex32 (n : Nat) : Bytes32 := BitVec.ofNat 256 (intLe (beBytes 32 n))

/-- The field value whose encoding the spec prints. -/
def fe (n : Nat) : Fe := feOfNat (hex32 n).toNat

/-- The state after an outcome; the reset state where there is none. -/
def after (o : Outcome) : State :=
  match o with
  | .next t => t
  | _ => State.reset

/-- The state after one step that completes the command word `w`. -/
def ran (w : Nat) (s : State) : State := after (step (s.withFetchWord 32 w))

/-- `F[1]` = a, `F[2]` = b, and `T` = 1 so that a written 0 shows. -/
def withF (a b : Nat) : State := setT (putF (putF State.reset 1#4 (some (fe a))) 2#4 (some (fe b))) true

/-- `B[0]`, `B[1]`, `B[2]` given, `T` = 1. -/
def withB (x y z : Nat) : State :=
  setT (writeB (writeB (writeB State.reset 0#4 (hex32 x)) 1#4 (hex32 y)) 2#4 (hex32 z)) true

/-! Byte strings that come up often, as the spec prints them. -/

/-- p − 1. -/
abbrev pMinusOne : Nat := 0xecffffffffffffffffffffffffffffffffffffffffffffffffffffffffffff7f

/-- r1 of V-F1. -/
abbrev valueR1 : Nat := 0x6aad39f4c2aaed1a8a27e534ce4aa7426078fe43c27a88b4ada9dd74482b8410

/-- r2 of V-F1. -/
abbrev valueR2 : Nat := 0x232cae48c88fff9b500f0b4cca8e9f33a72971aa44125c7294d11bb5c82df818

/-- 2^256 − 1. -/
abbrev allOnes : Nat := 0xffffffffffffffffffffffffffffffffffffffffffffffffffffffffffffffff

/-- 1. -/
abbrev oneBytes : Nat := 0x0100000000000000000000000000000000000000000000000000000000000000

/-- 2. -/
abbrev twoBytes : Nat := 0x0200000000000000000000000000000000000000000000000000000000000000

/-- the encoding of `B`. -/
abbrev baseBytes : Nat := 0x5866666666666666666666666666666666666666666666666666666666666666

/-! The points of V-G1, coordinate by coordinate. -/

/-- P3, `B` (V-G1). -/
def p3B : P3 :=
  ⟨fe 0x1ad5258f602d56c9b2a7259560c72c695cdcd6fd31e2a4c0fe536ecdd3366921,
    fe baseBytes,
    fe oneBytes,
    fe 0xa3ddb7a5b38ade6df5525177809ff0207de3ab648e4eea6665768bd70f5f8767⟩

/-- Cached, `B` (V-G1). -/
def cachedB : Cached :=
  ⟨fe 0x853b8cf5c693bc2f190e8cfbc62d93cfc2423d6498480b2765bad4333a9dcf07,
    fe 0x3e9140d70539109db3be40d1059f39fd098a8f683484c1a56712f898922ffd44,
    fe oneBytes,
    fe 0x68aa7a870512c9ab9ec4aacc23e8d9268c5943ddcb7d1b5aa8650c9f687b116f⟩

/-- P1P1, 2·`B`, by the addition formula (V-G1). -/
def sum2B : P1P1 :=
  ⟨fe 0xc576df96ce2a7ab7d54b45dd017ec283f48daf92393aa99b95d92d5e3f7c1d1e,
    fe 0xb4dc404329ebba4238df6d5d1b76d1ae89d675c036eac4cfc1cc0b4f1459a217,
    fe 0xf26aa037ebc28c9e423540eac50443ffbd0a0554775d1cab52e13b9266bb0b30,
    fe 0xff945fc8143d7361bdcabf153afbbc0042f5faab88a2e354ad1ec46d9944f44f⟩

/-- P3, 2·`B` (V-G1). -/
def p3TwoB : P3 :=
  ⟨fe 0x7ed63f9fcfe6151592763a1688f844ded91b3c21e1d17657d46a0f9691886f3b,
    fe 0x7e004a879a4cd3b68d3707516756e1d627b8da140ff421599230db4cce9e6d33,
    fe 0x08861cf60b5b2d72ba98b531ff7bb250b475f61217b89cfda20ea2521aeae459,
    fe 0x89d9ca92e3c732c59b133d4800957472c1075eddfea66efcaa8d292dda086e1f⟩

/-- P1P1, 2·`B`, by the doubling formula (V-G1). -/
def dbl2B : P1P1 :=
  ⟨fe 0x59bb6f4b6715bddbeaa5a2ee003fe141fac657c91c9dd4cdcaec16af1fbe0e4f,
    fe 0x5a6ea0a194755d219cefb6ae0dbb68d744eb3a601b75e2e760e685278a2cd10b,
    fe 0x7935d09b7561464fa11a20f56282a1ff5e8502aabb2e8e55a9f01d49b3dd0518,
    fe 0x76ca2f648a9eb9b05ee5df0a9d7d5e00a17afd5544d171aa560fe2b64c22fa67⟩

/-- P2, 2·`B` (V-G1). -/
def p2TwoB : P2 :=
  ⟨fe 0x96f5cfe7b3794585a49d8e05223e9177f6064f4878b4dd15b5da836524e2db4e,
    fe 0x1680d2a126d3b46de3cd41d49955b8f509ae36c5037d489624cc3693b367db4c,
    fe 0x822187fdc2568b9c2e666dccff9e2c146d9dbdc4052e67bfa883a894863a7916⟩

/-- P1P1, `B` − `B` (V-G1). -/
def diff0 : P1P1 :=
  ⟨fe 0x0000000000000000000000000000000000000000000000000000000000000000,
    fe 0xf26aa037ebc28c9e423540eac50443ffbd0a0554775d1cab52e13b9266bb0b30,
    fe 0xff945fc8143d7361bdcabf153afbbc0042f5faab88a2e354ad1ec46d9944f44f,
    fe 0xf26aa037ebc28c9e423540eac50443ffbd0a0554775d1cab52e13b9266bb0b30⟩

/-- P3, the neutral element (V-G1). -/
def p3Zero : P3 :=
  ⟨fe 0x0000000000000000000000000000000000000000000000000000000000000000,
    fe 0x08861cf60b5b2d72ba98b531ff7bb250b475f61217b89cfda20ea2521aeae459,
    fe 0x08861cf60b5b2d72ba98b531ff7bb250b475f61217b89cfda20ea2521aeae459,
    fe 0x0000000000000000000000000000000000000000000000000000000000000000⟩

/-- Precomp, `B` = `BASE[0][0]` (V-S2 row 1). -/
def precompB : Precomp :=
  ⟨fe 0x853b8cf5c693bc2f190e8cfbc62d93cfc2423d6498480b2765bad4333a9dcf07,
    fe 0x3e9140d70539109db3be40d1059f39fd098a8f683484c1a56712f898922ffd44,
    fe 0x68aa7a870512c9ab9ec4aacc23e8d9268c5943ddcb7d1b5aa8650c9f687b116f⟩

/-- A state with something everywhere: `F[1]` = 1, `F[2]` = p − 1; `G[1]` to `G[5]` one of each variant; `B[1]` the
encoding of `B`, `B[2]` all ones, `B[3]` a scalar; message `72`; a seed and a failure at the random port. The other
registers are as after reset. -/
def demo : State :=
  let s := putF (putF State.reset 1#4 (some 1)) 2#4 (some (fe pMinusOne))
  let s := putG (putG (putG s 1#4 (some (.p3 p3B))) 2#4 (some (.cached cachedB))) 3#4 (some (.precomp precompB))
  let s := putG (putG s 4#4 (some (.p2 p2TwoB))) 5#4 (some (.p1p1 dbl2B))
  let s := writeB (writeB s 1#4 (hex32 baseBytes)) 2#4 (hex32 allOnes)
  let s := writeB s 3#4 (hex32 0x77076d0a7318a57d3c16c17251b26645df4c2f87ebc0992ab177fba51db92c2a)
  { s with
    msg := [(0, 0x72#8)]
    msglen := 1#32
    rng := [some (hex32 0xc5aa8df43f9f837bedb7442f31dcb7b166d38535076f094b85ce3a2e0b4458f7), none] }

/-! ## WellFormed: for each check an ill-formed term it refuses (R91, R92 (d)) -/

theorem test_wf_refuses_system :
    (Instr.geWipe 8#4).wf = false := by decide

theorem test_wf_refuses_scalar :
    (Instr.scReduce 8#4).wf = false := by decide

theorem test_wf_refuses_group :
    (Instr.geIdent 8#4).wf = false ∧
    (Instr.geP3ToCached 8#4 0#4).wf = false ∧ (Instr.geP3ToCached 0#4 8#4).wf = false ∧
    (Instr.geP3ToP2 8#4 0#4).wf = false ∧ (Instr.geP3ToP2 0#4 8#4).wf = false ∧
    (Instr.geP1p1ToP2 8#4 0#4).wf = false ∧ (Instr.geP1p1ToP2 0#4 8#4).wf = false ∧
    (Instr.geP1p1ToP3 8#4 0#4).wf = false ∧ (Instr.geP1p1ToP3 0#4 8#4).wf = false ∧
    (Instr.geAdd 8#4 0#4 0#4).wf = false ∧ (Instr.geAdd 0#4 8#4 0#4).wf = false ∧ (Instr.geAdd 0#4 0#4 8#4).wf = false ∧
    (Instr.geSub 8#4 0#4 0#4).wf = false ∧ (Instr.geSub 0#4 8#4 0#4).wf = false ∧ (Instr.geSub 0#4 0#4 8#4).wf = false ∧
    (Instr.geMadd 8#4 0#4 0#4).wf = false ∧ (Instr.geMadd 0#4 8#4 0#4).wf = false ∧ (Instr.geMadd 0#4 0#4 8#4).wf = false ∧
    (Instr.geMsub 8#4 0#4 0#4).wf = false ∧ (Instr.geMsub 0#4 8#4 0#4).wf = false ∧ (Instr.geMsub 0#4 0#4 8#4).wf = false ∧
    (Instr.geP2Dbl 8#4 0#4).wf = false ∧ (Instr.geP2Dbl 0#4 8#4).wf = false ∧
    (Instr.geP3Dbl 8#4 0#4).wf = false ∧ (Instr.geP3Dbl 0#4 8#4).wf = false ∧
    (Instr.geEncode 0#4 8#4).wf = false ∧
    (Instr.geDecode 8#4 0#4).wf = false ∧
    (Instr.geDecodeNeg 8#4 0#4).wf = false := by decide

theorem test_wf_refuses_tables :
    (Instr.geSelect 8#4).wf = false ∧
    (Instr.geLoadBi 8#4).wf = false ∧
    (Instr.geScalarmultBase 8#4 0#4).wf = false ∧
    (Instr.geDoubleScalarmultVt 8#4 0#4 0#4 0#4).wf = false ∧ (Instr.geDoubleScalarmultVt 0#4 0#4 8#4 0#4).wf = false := by decide

theorem test_wf_refuses_ed25519 :
    (Instr.edFromSeed 8#4 0#4 0#4).wf = false ∧
    (Instr.edFrom 8#4 0#4 0#4).wf = false ∧ (Instr.edFrom 0#4 0#4 8#4).wf = false ∧
    (Instr.edGenerate 8#4 0#4).wf = false ∧
    (Instr.edSign 8#4 0#4 0#4).wf = false ∧ (Instr.edSign 0#4 8#4 0#4).wf = false ∧
    (Instr.edVerify 0#4 8#4).wf = false := by decide

theorem test_wf_top_of_range :
    (Instr.edSign 7#4 7#4 15#4).wf = true ∧
    (Instr.geEncode 15#4 7#4).wf = true := by decide

/-! ## Decoding: the sample word of every command (95_test_vectors.md part 2; R96), and words that are none (R97) -/

theorem test_decode_system :
    decode 0x00000000#32 = .ok (.nop) ∧
    decode 0x00000001#32 = .ok (.wipeAll) ∧
    decode 0x00000302#32 = .ok (.feWipe 3#4) ∧
    decode 0x00000303#32 = .ok (.geWipe 3#4) ∧
    decode 0x00000304#32 = .ok (.bWipe 3#4) := by decide

theorem test_decode_field :
    decode 0x00000310#32 = .ok (.feZero 3#4) ∧
    decode 0x00000311#32 = .ok (.feOne 3#4) ∧
    decode 0x00005312#32 = .ok (.feFromBytes 3#4 5#4) ∧
    decode 0x00005313#32 = .ok (.feToBytes 3#4 5#4) ∧
    decode 0x00065314#32 = .ok (.feAdd 3#4 5#4 6#4) ∧
    decode 0x00065315#32 = .ok (.feSub 3#4 5#4 6#4) ∧
    decode 0x00065316#32 = .ok (.feMul 3#4 5#4 6#4) ∧
    decode 0x00005317#32 = .ok (.feSq 3#4 5#4) ∧
    decode 0x00005318#32 = .ok (.feSq2 3#4 5#4) ∧
    decode 0x00005319#32 = .ok (.feMulSmall 3#4 5#4) ∧
    decode 0x0000531a#32 = .ok (.feInvert 3#4 5#4) ∧
    decode 0x0000531b#32 = .ok (.fePow2523 3#4 5#4) ∧
    decode 0x0000501c#32 = .ok (.feIsNeg 5#4) ∧
    decode 0x0000501d#32 = .ok (.feIsNz 5#4) ∧
    decode 0x0000531e#32 = .ok (.feNeg 3#4 5#4) ∧
    decode 0x0006501f#32 = .ok (.feCswap 5#4 6#4) := by decide

theorem test_decode_scalar :
    decode 0x00000320#32 = .ok (.scReduce 3#4) ∧
    decode 0x00765321#32 = .ok (.scMuladd 3#4 5#4 6#4 7#4) ∧
    decode 0x00005022#32 = .ok (.scCheckLtL 5#4) := by decide

theorem test_decode_group :
    decode 0x00000330#32 = .ok (.geIdent 3#4) ∧
    decode 0x00005331#32 = .ok (.geP3ToCached 3#4 5#4) ∧
    decode 0x00005332#32 = .ok (.geP3ToP2 3#4 5#4) ∧
    decode 0x00005333#32 = .ok (.geP1p1ToP2 3#4 5#4) ∧
    decode 0x00005334#32 = .ok (.geP1p1ToP3 3#4 5#4) ∧
    decode 0x00065335#32 = .ok (.geAdd 3#4 5#4 6#4) ∧
    decode 0x00065336#32 = .ok (.geSub 3#4 5#4 6#4) ∧
    decode 0x00065337#32 = .ok (.geMadd 3#4 5#4 6#4) ∧
    decode 0x00065338#32 = .ok (.geMsub 3#4 5#4 6#4) ∧
    decode 0x00005339#32 = .ok (.geP2Dbl 3#4 5#4) ∧
    decode 0x0000533a#32 = .ok (.geP3Dbl 3#4 5#4) ∧
    decode 0x0000533b#32 = .ok (.geEncode 3#4 5#4) ∧
    decode 0x0000533c#32 = .ok (.geDecode 3#4 5#4) ∧
    decode 0x0000533d#32 = .ok (.geDecodeNeg 3#4 5#4) := by decide

theorem test_decode_tables :
    decode 0x00000340#32 = .ok (.geSelect 3#4) ∧
    decode 0x00000341#32 = .ok (.geLoadBi 3#4) ∧
    decode 0x00005342#32 = .ok (.geScalarmultBase 3#4 5#4) ∧
    decode 0x00765343#32 = .ok (.geDoubleScalarmultVt 3#4 5#4 6#4 7#4) := by decide

theorem test_decode_x25519 :
    decode 0x00065350#32 = .ok (.x25519 3#4 5#4 6#4) ∧
    decode 0x00005351#32 = .ok (.x25519Base 3#4 5#4) := by decide

theorem test_decode_ed25519 :
    decode 0x00065160#32 = .ok (.edFromSeed 1#4 5#4 6#4) ∧
    decode 0x00035161#32 = .ok (.edFrom 1#4 5#4 3#4) ∧
    decode 0x00005162#32 = .ok (.edGenerate 1#4 5#4) ∧
    decode 0x00065363#32 = .ok (.edSign 3#4 5#4 6#4) ∧
    decode 0x00065064#32 = .ok (.edVerify 5#4 6#4) := by decide

theorem test_decode_illegal_words :
    ([0x00000005#32, 0x000000ff#32, 0x01000000#32, 0x00000100#32, 0x00000830#32, 0x00100014#32, 0x00008039#32,
      0x00000860#32].map fun w => (decode w).toOption) = List.replicate 8 none := by decide

theorem test_decode_field_order :
    decode 0x00432121#32 = .ok (.scMuladd 1#4 2#4 3#4 4#4) ∧ encode (.scMuladd 1#4 2#4 3#4 4#4) = 0x00432121#32 := by
  decide

/-- The encoding of what a P1P1 register stands for, through R199 and R206. -/
def encodeOf (s : State) (r : Reg) : Option Bytes32 :=
  match readG s r with
  | some (.p1p1 v) => some (encodePoint (p1p1ToP2 v))
  | _ => none

/-- The encoding of a P2 or P3 register (R206). -/
def xyzOf (s : State) (r : Reg) : Option Bytes32 :=
  match needXYZ s r with
  | .ok v => some (encodePoint v)
  | .error _ => none

/-! ## One step of every command (V-SYS, V-F, V-SC, V-G, V-S, V-X, V-E) -/

theorem test_nop : (ran 0x00000000 demo) = { demo with done := true } := by decide +kernel

/-- V-SYS row 6 (the start values of `demo` in place of its own). -/
theorem test_wipeAll : ran 0x00000001 demo = { State.reset with done := true, rng := demo.rng } := by decide +kernel

theorem test_feWipe :
    readF (ran 0x00000102 demo) 1#4 = none ∧
    readF (ran 0x00000102 demo) 2#4 = readF demo 2#4 := by decide +kernel

theorem test_geWipe :
    readG (ran 0x00000103 demo) 1#4 = none ∧
    readG (ran 0x00000103 demo) 2#4 = readG demo 2#4 := by decide +kernel

theorem test_bWipe :
    readB (ran 0x00000304 demo) 3#4 = 0#256 ∧
    readB (ran 0x00000304 demo) 2#4 = readB demo 2#4 := by decide +kernel

theorem test_feZero : readF (ran 0x00000310 demo) 3#4 = some 0 := by decide +kernel

theorem test_feOne : readF (ran 0x00000311 demo) 3#4 = some 1 := by decide +kernel

/-- 2^256 − 1 loads as 18 (V-F3a). -/
theorem test_feFromBytes_top :
    readF (ran 0x00000312 (withB allOnes 0 0)) 3#4 =
      some (fe 0x1200000000000000000000000000000000000000000000000000000000000000) := by decide +kernel

theorem test_feToBytes : readB (ran 0x00001313 (withF pMinusOne 0)) 3#4 = hex32 pMinusOne := by decide +kernel

theorem test_feAdd_wraps :
    readF (ran 0x00021314 (withF pMinusOne pMinusOne)) 3#4 =
      some (fe 0xebffffffffffffffffffffffffffffffffffffffffffffffffffffffffffff7f) := by decide +kernel

theorem test_feAdd_general :
    readF (ran 0x00021314 (withF valueR1 valueR2)) 3#4 =
      some (fe 0x8dd9e73c8b3aedb6da36f08098d9467607a26fee068de426427bf92911597c29) := by decide +kernel

theorem test_feSub_order :
    readF (ran 0x00021315 (withF valueR1 valueR2)) 3#4 =
      some (fe 0x34818babfa1aee7e3918dae803bc070fb94e8d997d682c4219d8c1bf7ffd8b77) := by decide +kernel

theorem test_feMul_general :
    readF (ran 0x00021316 (withF valueR1 valueR2)) 3#4 =
      some (fe 0x4d9c89b13b70b95cd657e3834059cf68e24ce21919e03c3a40f70b9a3d6bf258) := by decide +kernel

/-- Destination and both sources the same register (V-F1, R100). -/
theorem test_feMul_alias :
    readF (ran 0x00011116 (withF valueR1 valueR2)) 1#4 =
      some (fe 0x4318b58bddddf6e546fba0f956a2e5540edf5573dcd505c51222524f1ca28c44) := by decide +kernel

theorem test_feSq :
    readF (ran 0x00001217 (withF valueR1 0)) 2#4 =
      some (fe 0x4318b58bddddf6e546fba0f956a2e5540edf5573dcd505c51222524f1ca28c44) := by decide +kernel

theorem test_feSq2 :
    readF (ran 0x00001218 (withF valueR1 0)) 2#4 =
      some (fe 0x99306a17bbbbedcb8df641f3ad44cba91cbeabe6b8ab0b8a2544a49e38441909) := by decide +kernel

/-- The constant is unsigned (V-F4 row 5). -/
theorem test_feMulSmall :
    readF (ran 0x00001219 { withF valueR1 0 with arg := 0x80000000#32 }) 2#4 =
      some (fe 0x5836cf39b6d61c7a61d5760dc593721a67a55321303cff21613d44dad6d46e3a) := by decide +kernel

theorem test_feInvert :
    readF (ran 0x0000121a (withF valueR1 0)) 2#4 =
      some (fe 0x3eb7b9b06dbd9f24df520e8f63ba87954dd94f0fa3a043496e36afc2a4d8b36e) := by decide +kernel

theorem test_feInvert_zero :
    readF (ran 0x0000121a (withF 0 0)) 2#4 = some 0 ∧
    (ran 0x0000121a (withF 0 0)).err = false := by decide +kernel

theorem test_fePow2523 :
    readF (ran 0x0000121b (withF valueR1 0)) 2#4 =
      some (fe 0x8fc94131dd1cd8226401b5f403742373df48b2a8f126e3de8e30fa77d601c34b) := by decide +kernel

/-- p − 1 is even (V-F2). -/
theorem test_feIsNeg : (ran 0x0000101c (withF pMinusOne 0)).flagT = false := by decide +kernel

theorem test_feIsNz : (ran 0x0000101d (withF 0 0)).flagT = false := by decide +kernel

theorem test_feNeg :
    readF (ran 0x0000121e (withF valueR1 0)) 2#4 =
      some (fe 0x8352c60b3d5512e575d81acb31b558bd9f8701bc3d85774b5256228bb7d47b6f) := by decide +kernel

theorem test_feNeg_zero : readF (ran 0x0000121e (withF 0 0)) 2#4 = some 0 := by decide +kernel

theorem test_feCswap_swaps :
    readF (ran 0x0002101f { withF oneBytes twoBytes with arg := 3#32 }) 1#4 = some 2 ∧
    readF (ran 0x0002101f { withF oneBytes twoBytes with arg := 3#32 }) 2#4 = some 1 := by decide +kernel

theorem test_feCswap_keeps :
    readF (ran 0x0002101f { withF oneBytes twoBytes with arg := 0xfffffffe#32 }) 1#4 = some 1 ∧
    readF (ran 0x0002101f { withF oneBytes twoBytes with arg := 0xfffffffe#32 }) 2#4 = some 2 := by decide +kernel

/-- W[0] = 2^256; the upper half stays (V-SC1). -/
theorem test_scReduce :
    readB (ran 0x00000020 (withB 0 oneBytes 0)) 0#4 =
      hex32 0x1d95988d7431ecd670cf7d73f45befc6feffffffffffffffffffffffffffff0f ∧
    readB (ran 0x00000020 (withB 0 oneBytes 0)) 1#4 = hex32 oneBytes := by decide +kernel

theorem test_scMuladd :
    readB (ran 0x00210321 (withB 0xd99a08e47ccc61a0c7fd186f5fc43b369986715a5578f834b4324705bd244509 0x0102016c9e45bf9fcd7bc5036e3c2e972bed6264cf29988e597852743154cb0a 0x4b77fe0050ade3f673512d0695ee17f8fd13d8972f0392c0b80a3e5066c6400f)) 3#4 =
      hex32 0x9a846662a29c0a624eb1373ab9845f8ec77c3ea41d93491c670013be0fec460b := by decide +kernel

theorem test_scMuladd_unreduced :
    readB (ran 0x00210321 (withB allOnes allOnes allOnes)) 3#4 =
      hex32 0xd14df91389432c25ad60ff9791b9fd1d67bef517d273ecce3d9a307c1b419903 := by decide +kernel

/-- ℓ itself is not below ℓ (V-SC3). -/
theorem test_scCheckLtL_at :
    (ran 0x00000022 (withB 0xedd3f55c1a631258d69cf7a2def9de1400000000000000000000000000000010 0 0)).flagT =
      false := by decide +kernel

theorem test_scCheckLtL_below :
    (ran 0x00000022 (setT (withB 0xecd3f55c1a631258d69cf7a2def9de1400000000000000000000000000000010 0 0) false)).flagT =
      true := by decide +kernel

theorem test_geIdent : readG (ran 0x00000630 demo) 6#4 = some (.p3 ⟨0, 1, 1, 0⟩) := by decide +kernel

theorem test_geP3ToCached : readG (ran 0x00001631 demo) 6#4 = some (.cached cachedB) := by decide +kernel

theorem test_geP3ToP2 : readG (ran 0x00001632 demo) 6#4 = some (.p2 ⟨p3B.x, p3B.y, p3B.z⟩) := by decide +kernel

theorem test_geP1p1ToP2 : readG (ran 0x00005633 demo) 6#4 = some (.p2 p2TwoB) := by decide +kernel

/-- Destination = source (V-G1). -/
theorem test_geP1p1ToP3 :
    readG (ran 0x00006634 (putG demo 6#4 (some (.p1p1 sum2B)))) 6#4 = some (.p3 p3TwoB) := by decide +kernel

theorem test_geAdd : readG (ran 0x00021635 demo) 6#4 = some (.p1p1 sum2B) := by decide +kernel

theorem test_geSub : readG (ran 0x00021636 demo) 6#4 = some (.p1p1 diff0) := by decide +kernel

/-- `B` + `B` by the mixed formula is 2·`B` (V-G2, n = 2). -/
theorem test_geMadd :
    encodeOf (ran 0x00031637 demo) 6#4 =
      some (hex32 0xc9a3f86aae465f0e56513864510f3997561fa2c9e85ea21dc2292309f3cd6022) := by decide +kernel

/-- `B` − `B` by the mixed formula is the neutral element (V-G2, n = 0). -/
theorem test_geMsub : encodeOf (ran 0x00031638 demo) 6#4 = some (hex32 oneBytes) := by decide +kernel

/-- Twice 2·`B` (V-G2, n = 4). -/
theorem test_geP2Dbl :
    encodeOf (ran 0x00004639 demo) 6#4 =
      some (hex32 0x2f1132ca61ab38dff00f2fea3228f24c6c71d58085b80e47e19515cb27e8d047) := by decide +kernel

theorem test_geP3Dbl : readG (ran 0x0000163a demo) 6#4 = some (.p1p1 dbl2B) := by decide +kernel

theorem test_geEncode :
    readB (ran 0x0000453b demo) 5#4 =
      hex32 0xc9a3f86aae465f0e56513864510f3997561fa2c9e85ea21dc2292309f3cd6022 := by decide +kernel

theorem test_geDecode :
    readG (ran 0x0000163c demo) 6#4 = some (.p3 p3B) ∧
    (ran 0x0000163c demo).flagT = true := by decide +kernel

/-- y = 2 is not on the curve; the destination held a point (V-G3). -/
theorem test_geDecode_fails :
    readG (ran 0x0000013c (writeB (setT demo true) 0#4 2#256)) 1#4 = none ∧
    (ran 0x0000013c (writeB (setT demo true) 0#4 2#256)).flagT = false ∧
    (ran 0x0000013c (writeB (setT demo true) 0#4 2#256)).err = false := by decide +kernel

/-- The negative of `B` (V-G3 row 1). -/
theorem test_geDecodeNeg :
    (readG (ran 0x0000163d demo) 6#4).isSome = true ∧
    xyzOf (ran 0x0000163d demo) 6#4 =
      some (hex32 0x58666666666666666666666666666666666666666666666666666666666666e6) := by decide +kernel

/-- Digit −1 of row 0 (V-S2 row 2). -/
theorem test_geSelect_negative :
    readG (ran 0x00000140 { State.reset with arg := 0x0000ff00#32 }) 1#4 =
      some (.precomp ⟨fe 0x3e9140d70539109db3be40d1059f39fd098a8f683484c1a56712f898922ffd44,
        fe 0x853b8cf5c693bc2f190e8cfbc62d93cfc2423d6498480b2765bad4333a9dcf07,
        fe 0x85558578faed3654613b5533dc1726d973a6bc223482e4a5579af3609784ee10⟩) := by decide +kernel

/-- Digit −8 of row 31 (V-S2 row 5). -/
theorem test_geSelect_last :
    readG (ran 0x00000140 { State.reset with arg := 0x0000f81f#32 }) 1#4 =
      some (.precomp ⟨fe 0x2e34c549af92bc1ad0fae6b211d8eeff294ec8fc8d8ca2ef43c54ca418dfb511,
        fe 0xfc75a9428abb7bbf58a3ad9677395c8c48aaedcd6fc77fe2a620bcf6d75f7319,
        fe 0x87bd37bd2f6f541c81abe680f0717b1446685b9a2f5efcdaa076206eee6e1070⟩) := by decide +kernel

theorem test_geLoadBi :
    readG (ran 0x00000141 { State.reset with arg := 7#32 }) 1#4 =
      some (.precomp ⟨fe 0xa0eacf1303ccce246d249c188dc24886d0d4f2c1fabdbd2d2be72df11729e261,
        fe 0x0bcf8c4686cd0b04d610992aa49b82d39251b20708300875bf5ed01842cdb543,
        fe 0x16b5d09b2f769a5deede3f374eaf38eb7042d6937d5a2e0342d8e40a21611d51⟩) := by decide +kernel

/-- 2^255 + 2^252, where the digits leave their range (V-S3). -/
theorem test_geScalarmultBase :
    xyzOf (ran 0x00000042 (withB 0x0000000000000000000000000000000000000000000000000000000000000090 0 0)) 0#4 =
      some (hex32 oneBytes) := by decide +kernel

/-- ℓ − 1 gives −`B` (V-S3). -/
theorem test_geScalarmultBase_order :
    xyzOf (ran 0x00000042 (withB 0xecd3f55c1a631258d69cf7a2def9de1400000000000000000000000000000010 0 0)) 0#4 =
      some (hex32 0x58666666666666666666666666666666666666666666666666666666666666e6) := by decide +kernel

/-- 3·`B` + 2·`B` = 5·`B` (V-G2, n = 5). -/
theorem test_geDoubleScalarmultVt :
    xyzOf (ran 0x00011743 (writeB (writeB demo 1#4 3#256) 0#4 2#256)) 7#4 =
      some (hex32 0xedc876d6831fd2105d0b4389ca2e283166469289146e2ce06faefe98b22548df) := by decide +kernel

/-- The lost carry of `slide` above 2^255 (V-S3). -/
theorem test_geDoubleScalarmultVt_top :
    xyzOf (ran 0x00011743 (writeB (writeB demo 1#4 0#256) 0#4 (hex32 0x0000000000000000000000000000000000000000000000000000000000000090))) 7#4 =
      some (hex32 0xe847bff7f36e40054c41ad64a6b468900628749162836f796f07f9283ba366e6) := by decide +kernel

/-- Bit 255 of u set (V-X row 6). -/
theorem test_x25519 :
    readB (ran 0x00010250 (withB 0x4b66e9d4d1b4673c5ad22691957d6af5c11b6421e0ea01d42ca4169e7918ba0d 0xe5210f12786811d3f4b7959d0538ae2c31dbe7106fc03c3efc4cd549c715a493 0)) 2#4 =
      hex32 0x95cbde9476e8907d7aade45cb4b873f88b595a68799fa152e6f8f7647aac7957 ∧
    (ran 0x00010250 (withB 0x4b66e9d4d1b4673c5ad22691957d6af5c11b6421e0ea01d42ca4169e7918ba0d 0xe5210f12786811d3f4b7959d0538ae2c31dbe7106fc03c3efc4cd549c715a493 0)).flagT =
      true := by decide +kernel

/-- E-1. -/
theorem test_x25519Base :
    readB (ran 0x00000151 (withB 0x77076d0a7318a57d3c16c17251b26645df4c2f87ebc0992ab177fba51db92c2a 0 0)) 1#4 =
      hex32 0x8520f0098930a754748b7ddcb43ef75a0dbf3a0d26381af4eba4a98eaa9b4e6a ∧
    readB (ran 0x00000151 (withB 0x77076d0a7318a57d3c16c17251b26645df4c2f87ebc0992ab177fba51db92c2a 0 0)) 0#4 =
      hex32 0x77076d0a7318a57d3c16c17251b26645df4c2f87ebc0992ab177fba51db92c2a := by decide +kernel

/-- Key, public key and message `72` of V-E row 2: `W[0]`, `B[2]`, `MSG`. -/
def keyTwo : State :=
  { withB 0x68bd9ed75882d52815a97585caf4790a7f6c6b3b7f821c5e259a24b02e502e51 0x4566848291dacaf225cc63deb348da318e2c2e17b00b8160f9ce6bfa0472911d
      0x3d4017c3e843895a92b70aa74d1b7ebc9c982ccf2ec4968cc0cd55f12af4660c with
    msg := [(0, 0x72#8)]
    msglen := 1#32 }

/-- The same with the signature of V-E row 2 in `W[3]`. -/
def signedTwo : State :=
  writeB (writeB keyTwo 6#4 (hex32 0x92a009a9f0d4cab8720e820b5f642540a2b27b5416503f8fb3762223ebdb69da)) 7#4
    (hex32 0x085ac1e43e15996e458f3613d0f11d8c387b2eaeb4302aeeb00d291612bb0c00)

/-- V-E row 1. -/
theorem test_edFromSeed :
    readB (ran 0x00042060 (writeB State.reset 4#4 (hex32 0x9d61b19deffd5a60ba844af492ec2cc44449c5697b326919703bac031cae7f60))) 0#4 =
      hex32 0x307c83864f2833cb427a2ef1c00a013cfdff2768d980c0a3a520f006904de94f ∧
    readB (ran 0x00042060 (writeB State.reset 4#4 (hex32 0x9d61b19deffd5a60ba844af492ec2cc44449c5697b326919703bac031cae7f60))) 1#4 =
      hex32 0x9b4f0afe280b746a778684e75442502057b7473a03f08f96f5a38e9287e01f8f ∧
    readB (ran 0x00042060 (writeB State.reset 4#4 (hex32 0x9d61b19deffd5a60ba844af492ec2cc44449c5697b326919703bac031cae7f60))) 2#4 =
      hex32 0xd75a980182b10ab7d54bfed3c964073a0ee172f3daa62325af021a68f707511a := by decide +kernel

/-- The public half is copied unchecked (V-E3 row 2). -/
theorem test_edFrom :
    readB (ran 0x00022061 (writeB State.reset 4#4 (hex32 0x9d61b19deffd5a60ba844af492ec2cc44449c5697b326919703bac031cae7f60))) 0#4 =
      hex32 0x307c83864f2833cb427a2ef1c00a013cfdff2768d980c0a3a520f006904de94f ∧
    readB (ran 0x00022061 (writeB State.reset 4#4 (hex32 0x9d61b19deffd5a60ba844af492ec2cc44449c5697b326919703bac031cae7f60))) 1#4 =
      hex32 0x9b4f0afe280b746a778684e75442502057b7473a03f08f96f5a38e9287e01f8f ∧
    readB (ran 0x00022061 (writeB State.reset 4#4 (hex32 0x9d61b19deffd5a60ba844af492ec2cc44449c5697b326919703bac031cae7f60))) 2#4 =
      0#256 := by decide +kernel

/-- V-E3 row 4; one draw is made. -/
theorem test_edGenerate :
    readB (ran 0x00002062 demo) 0#4 = hex32 0x909a8b755ed902849023a55b15c23d11ba4d7f4ec5c2f51b1325a181991ea95c ∧
    readB (ran 0x00002062 demo) 2#4 = hex32 0xfc51cd8e6218a1a38da47ed00230f0580816ed13ba3303ac5deb911548908025 ∧
    (ran 0x00002062 demo).rng = [none] := by decide +kernel

/-- V-E3 row 5. -/
theorem test_edGenerate_failure :
    (ran 0x00002062 { demo with rng := [none] }).errcode = 5#32 ∧
    (ran 0x00002062 { demo with rng := [none] }).b = demo.b ∧
    statusWord (ran 0x00002062 { demo with rng := [none] }) = 6#32 := by decide +kernel

/-- V-E row 2. -/
theorem test_edSign :
    readB (ran 0x00020363 keyTwo) 6#4 = hex32 0x92a009a9f0d4cab8720e820b5f642540a2b27b5416503f8fb3762223ebdb69da ∧
    readB (ran 0x00020363 keyTwo) 7#4 =
      hex32 0x085ac1e43e15996e458f3613d0f11d8c387b2eaeb4302aeeb00d291612bb0c00 := by decide +kernel

theorem test_edVerify_accepts : statusWord (ran 0x00032064 (setT signedTwo false)) = 0xa#32 := by decide +kernel

/-- The message one byte shorter (V-E2 row e). -/
theorem test_edVerify_rejects :
    statusWord (ran 0x00032064 { signedTwo with msglen := 0#32 }) = 2#32 := by decide +kernel

/-! ## The host's side: one access each (V-BUS, V-ERR), the schedule and the issue of a command -/

/-- `demo` with the command word `w` pending. -/
def pending (w : Word) : State := { demo with pend := some w }

/-- V-BUS row 6: the last word of `B[3]`. -/
theorem test_breg_write : readB (after (hostStep (.write 0x27C .w32 0xAABBCCDD#32) State.reset)) 3#4 =
    BitVec.ofNat 256 (0xAABBCCDD * 2 ^ 224) := by decide +kernel

/-- V-BUS row 11: the message bytes are little-endian. -/
theorem test_msg_write : (after (hostStep (.write 0x1000 .w32 0x00636261#32) State.reset)).msg =
    [(0, 0x61#8), (1, 0x62#8), (2, 0x63#8)] := by decide +kernel

/-- V-BUS rows 13 to 18: BUSY after the issue; the operand storage and `CMD` are refused, `STATUS` and `CTRL` are not. -/
theorem test_busy_accesses :
    statusWord (after (hostStep (.write 0x4 .w32 0x12#32) demo)) = 1#32 ∧
      (after (hostStep (.read 0x200 .w32) (pending 0x12#32))).rdata = some 0#32 ∧
      after (hostStep (.write 0x8 .w32 5#32) (pending 0x12#32)) = { pending 0x12#32 with accv := true } ∧
      after (hostStep (.write 0x4 .w32 0#32) (pending 0x12#32)) = { pending 0x12#32 with accv := true } ∧
      after (hostStep (.write 0x14 .w32 1#32) (pending 0x12#32)) = { pending 0x12#32 with ie := true } := by
  decide +kernel

/-- V-BUS row 24: the soft reset while BUSY. -/
theorem test_soft_reset :
    after (hostStep (.write 0x14 .w32 2#32) (pending 0x12#32)) = { State.reset with rng := demo.rng } := by decide +kernel

/-- V-ERR, last lines: a `CMD` write with ERR = 1 is refused; clearing ERR clears `ERRCODE`. -/
theorem test_error_path :
    after (hostStep (.write 0x4 .w32 0x110#32) (takeError demo .empty)) = { takeError demo .empty with accv := true } ∧
      after (hostStep (.write 0xC .w32 0x14#32) (setAccv (takeError demo .empty))) = { demo with done := true } := by
  decide +kernel

/-- R74, R295, R296: issue from the host, then the engine's turn, by the schedule (log entry 1). -/
theorem test_issue_then_complete :
    after (step (after (step { demo with agenda := [.host (.write 0x4 .w32 0x311#32)] }))) =
      { putF demo 3#4 (some 1) with done := true } := by decide +kernel

/-- R281, R97: the steps of an illegal word and of an idle engine. -/
theorem test_illegal_and_idle_steps :
    ran 0x00000830 demo = takeError demo .illegal ∧ after (step demo) = demo := by decide +kernel

/-- V-F3a rows p − 1, p and 2^255 − 1 as one string each, through load and store. -/
theorem test_round_trip :
    feEnc (feDec (BitVec.ofNat 256 (prime25519 - 1))) = BitVec.ofNat 256 (prime25519 - 1) ∧
      feEnc (feDec (BitVec.ofNat 256 prime25519)) = 0#256 ∧ feEnc (feDec (BitVec.ofNat 256 (2 ^ 255 - 1))) = 18#256 := by
  decide +kernel

/-- The ROM against R220's laws at its far end: `BASE[31][7]` negated is V-S2 row 5. -/
theorem test_rom_far_end :
    select 31 (-8) = negPrecomp (baseEntry 31 7) ∧ (baseRom.map List.length) = List.replicate 32 8 := by decide +kernel

/-! ## Witnesses: for every statement with hypotheses, states and operands that meet them together

Each is named after its statement; where the statement has clauses, there is one conjunct for each, at a boundary of its
range. -/

theorem witness_DecodeOfEncodedCommand :
    (Instr.geAdd 7#4 7#4 7#4).wf = true ∧ (Instr.scMuladd 15#4 15#4 15#4 15#4).wf = true ∧ Instr.nop.wf = true := by
  decide

theorem witness_EncodeOfDecodedWord :
    decode 0x00ff0f43#32 = .error .illegalField ∧ decode 0x00f7f743#32 = .ok (.geDoubleScalarmultVt 7#4 15#4 7#4 15#4) := by
  decide

theorem witness_LegalWordsAreTheCommands :
    wordLegal 0x00f7f743#32 ∧ ¬ wordLegal 0x00000005#32 ∧ engineTurn (pending 5#32) [] ∧
      (pending 5#32).pend = some 5#32 := by
  refine ⟨⟨⟨0x43, .g, .b, .g, .b⟩, by decide, by decide, by decide, ?_, ?_, ?_, ?_⟩, ?_, .inr ⟨rfl, rfl⟩, rfl⟩
  · show _ < 8; decide
  · trivial
  · show _ < 8; decide
  · trivial
  · rintro ⟨row, hr, hop, -⟩
    have : ∀ row ∈ commandRowsLow ++ commandRowsHigh, row.opcode ≠ 5 := by decide
    exact this row hr hop.symm

theorem witness_StepRunsDecodedCommand :
    engineTurn (pending 0x00021314#32) [] ∧ (pending 0x00021314#32).pend = some 0x00021314#32 ∧
      decode 0x00021314#32 = .ok (.feAdd 3#4 1#4 2#4) := by
  exact ⟨.inr ⟨rfl, rfl⟩, rfl, by decide⟩

theorem witness_ErrIllegalConditions :
    (engineTurn (pending 5#32) [] ∧ (pending 5#32).pend = some 5#32 ∧ ¬ wordLegal 5#32) ∧
    selectInRange 0x900 = false ∧ selectInRange 0xf700 = false ∧ selectInRange 0x120 = false ∧
    selectInRange 0x10100 = false ∧ 7 < (8#32).toNat ∧
    (7#4).toNat < 8 ∧ (14#4).toNat = 2 * (7#4).toNat ∧ (15#4).toNat = 2 * (7#4).toNat + 1 :=
  ⟨⟨.inr ⟨rfl, rfl⟩, rfl, witness_LegalWordsAreTheCommands.2.1⟩, by decide⟩

theorem witness_StepFollowsSchedule :
    (engineTurn demo [] ∧ demo.busy = false) ∧
      ({ demo with agenda := [.host (.read 0 .w32)] } : State).agenda = .host (.read 0 .w32) :: [] ∧
      ({ demo with agenda := [.hardReset] } : State).agenda = .hardReset :: [] ∧ 0x2000 ≤ 0x2000 :=
  ⟨⟨.inr ⟨rfl, rfl⟩, rfl⟩, rfl, rfl, le_refl _⟩

theorem witness_ResetValuesHold :
    ({ demo with agenda := [.hardReset] } : State).agenda = .hardReset :: [] ∧ (0xffffffff#32).getLsbD 1 = true :=
  ⟨rfl, by decide⟩

theorem witness_CmdWriteIssues :
    (demo.busy = false ∧ demo.err = false) ∧ (pending 0#32).busy = true ∧
      ({ demo with err := true } : State).err = true := ⟨⟨rfl, rfl⟩, rfl, rfl⟩

theorem witness_BusyProtectsOperandStorage :
    (pending 0#32).busy = true ∧
      ∀ o ∈ [0x200, 0x3FC, 0x1000, 0x1FFC], o % 4 = 0 ∧ ((0x200 ≤ o ∧ o < 0x400) ∨ (0x1000 ≤ o ∧ o < 0x2000)) :=
  ⟨rfl, by decide⟩

theorem witness_RefusedAccesses :
    (0x200 < 0x2000 ∧ AccessWidth.w8 ≠ .w32) ∧ (0x201 < 0x2000 ∧ 0x201 % 4 ≠ 0) ∧
      (0x1C ≤ 0x1C ∧ 0x1FC ≤ 0x1FF) ∧ (0x400 ≤ 0x400 ∧ 0xFFC ≤ 0xFFF) := by decide

theorem witness_RegisterReadsAndWrites : (0xfffffffd#32).getLsbD 1 = false ∧ demo.busy = false := ⟨by decide, rfl⟩

theorem witness_BregWindow :
    demo.busy = false ∧ 15 < 16 ∧ 7 < 8 ∧ 7 < 8 ∧ 15 < 16 ∧ 0x200 + 32 * 15 + 4 * 7 = 0x3FC ∧
      0x200 + 64 * 7 + 4 * 15 = 0x3FC := ⟨rfl, by decide⟩

theorem witness_MsgWindow :
    4092 % 4 = 0 ∧ 4092 < 4096 ∧ demo.busy = false ∧ memCanonical demo :=
  ⟨by decide, by decide, rfl, rfl, rfl⟩

theorem witness_ReadsHaveNoSideEffect :
    (∃ t, hostStep (.read 0x1FFC .w32) demo = .next t) ∧ ∃ t, hostStep (.read 0x201 .w8) demo = .next t ∧ t.accv ≠ demo.accv :=
  ⟨⟨_, rfl⟩, ⟨_, rfl, by decide⟩⟩

theorem witness_InterruptOutput :
    (∃ t, exec .nop demo = .next t) ∧ (∃ t, hostStep (.write 0x4 .w32 0#32) demo = .next t) ∧
      (2#32).getLsbD 1 = true ∧ (∃ t, hostStep (.write 0xC .w32 2#32) demo = .next t) ∧
      (∃ t, hostStep (.write 0x14 .w32 2#32) demo = .next t) ∧
      ∃ t, step { demo with agenda := [.hardReset] } = .next t :=
  ⟨⟨_, rfl⟩, ⟨_, rfl⟩, by decide, ⟨_, rfl⟩, ⟨_, rfl⟩, ⟨_, rfl⟩⟩

/-- Two BUSY states that differ in an F register, a G register, the pending word, a B register and the message. -/
theorem witness_HostCannotSeeHiddenState :
    hostEquivalent (pending 0#32)
        { pending 0x00021314#32 with f := State.reset.f, g := State.reset.g, b := State.reset.b, msg := [] } ∧
      readF (pending 0#32) 1#4 ≠ readF State.reset 1#4 ∧ hostStep (.read 0x2000 .w32) demo = .fault .offsetOutsideWindow :=
  ⟨⟨rfl, rfl, rfl, rfl, rfl, rfl, rfl, rfl, rfl, rfl, fun h => nomatch h⟩, by decide, rfl⟩

theorem witness_ErrorChangesNothingElse :
    ∃ t, exec (.feSq 1#4 0#4) demo = .next t ∧ demo.err = false ∧ t.err = true ∧ t.errcode = 2#32 :=
  ⟨_, rfl, rfl, rfl, rfl⟩

/-- An illegal word pending, and one case of each kind of check, in the order of R99 (V-ERR). -/
theorem witness_FirstFailingCheckDecides :
    (engineTurn (pending 5#32) [] ∧ (pending 5#32).pend = some 5#32 ∧ ¬ wordLegal 5#32) ∧
      firstError demo (.geAdd 8#4 0#4 0#4) = some .illegal ∧ firstError demo (.geAdd 6#4 1#4 0#4) = some .empty ∧
      firstError demo (.geAdd 6#4 4#4 0#4) = some .tag ∧
      firstError { demo with arg := 0x900#32 } (.geSelect 1#4) = some .illegal ∧
      firstError { demo with msglen := 4097#32 } (.edVerify 2#4 3#4) = some .msglen ∧
      firstError { demo with msglen := 5000#32 } (.edFromSeed 1#4 2#4 4#4) = some .illegal ∧
      firstError { demo with rng := [none] } (.edGenerate 0#4 2#4) = some .invalidKey ∧
      firstError demo (.geAdd 6#4 1#4 2#4) = none :=
  ⟨⟨.inr ⟨rfl, rfl⟩, rfl, witness_LegalWordsAreTheCommands.2.1⟩, by decide⟩

theorem witness_OnlySixCommandsWriteT :
    (∃ t, exec (.bWipe 1#4) demo = .next t) ∧ Instr.opcode (.bWipe 1#4) ∉ [0x1C#8, 0x1D#8, 0x22#8, 0x3C#8, 0x3D#8, 0x64#8, 0x01#8] ∧
      (∃ t, exec .wipeAll (setT demo true) = .next t) ∧
      ∃ t, exec (.feIsNz 0#4) (setT demo true) = .next t ∧ t.err = true :=
  ⟨⟨_, rfl⟩, by decide, ⟨_, rfl⟩, ⟨_, rfl, rfl⟩⟩

theorem witness_CommandFrame :
    (∃ t, exec (.feZero 1#4) demo = .next t) ∧ 2#4 ∉ (writesOf (.feZero 1#4)).f ∧
      (∀ d ∈ (writesOf (.geIdent 1#4)).g, gIndex d ≠ gIndex 2#4) ∧
      13#4 ∉ (writesOf (.edFromSeed 7#4 0#4 1#4)).b ∧ (writesOf (.feZero 1#4)).t = false :=
  ⟨⟨_, rfl⟩, by decide, by decide, by decide, rfl⟩

/-- A register of each variant, so that each clause has a wrong one. -/
theorem witness_WrongVariantRaisesTag :
    (6#4).toNat < 8 ∧ (1#4).toNat < 8 ∧
      (readG demo 4#4 = some (.p2 p2TwoB) ∧ (Point.p2 p2TwoB).variant ≠ .p3 ∧ (Point.p2 p2TwoB).variant ≠ .p1p1) ∧
      (readG demo 5#4 = some (.p1p1 dbl2B) ∧ (Point.p1p1 dbl2B).variant ≠ .p2 ∧ (Point.p1p1 dbl2B).variant ≠ .p3) ∧
      (readG demo 1#4 = some (.p3 p3B) ∧ readG demo 2#4 = some (.cached cachedB) ∧
        (Point.cached cachedB).variant ≠ .precomp) ∧
      readG demo 3#4 = some (.precomp precompB) ∧ (Point.precomp precompB).variant ≠ .cached := by decide +kernel

theorem witness_SystemCommandResults : (7#4).toNat < 8 ∧ 8 ≤ (8#4).toNat := by decide

theorem witness_FieldLoadAndStore :
    readF demo 2#4 = some (fe pMinusOne) ∧
      readF demo 0#4 = none := by decide +kernel

theorem witness_FieldRingCommands :
    readF demo 1#4 = some 1 ∧
      readF demo 2#4 = some (fe pMinusOne) ∧
      readF demo 0#4 = none := by decide +kernel

theorem witness_FieldUnaryCommands : readF demo 1#4 = some 1 ∧ readF demo 0#4 = none := by decide +kernel

theorem witness_FieldPowerCommands :
    readF demo 1#4 = some 1 ∧ (1 : Fe).val ≠ 0 ∧ readF (putF demo 3#4 (some 0)) 3#4 = some 0 ∧ readF demo 0#4 = none := by
  decide +kernel

theorem witness_FieldPredicatesAndSwap :
    readF demo 1#4 = some 1 ∧ readF demo 15#4 = none ∧ (3#32).toNat % 2 = 1 ∧ demo.arg.toNat % 2 = 0 := by
  decide +kernel

theorem witness_ScalarCommands : (7#4).toNat < 8 ∧ (15#4).toNat = 2 * (7#4).toNat + 1 ∧ 8 ≤ (8#4).toNat := by decide

theorem witness_PointConversions :
    (7#4).toNat < 8 ∧ readG demo 1#4 = some (.p3 p3B) ∧ readG demo 5#4 = some (.p1p1 dbl2B) ∧ readG demo 0#4 = none := by
  decide +kernel

theorem witness_PointAdditionsAndDoublings :
    (0#4).toNat < 8 ∧ readG demo 1#4 = some (.p3 p3B) ∧ readG demo 2#4 = some (.cached cachedB) ∧
      readG demo 3#4 = some (.precomp precompB) ∧ readG demo 4#4 = some (.p2 p2TwoB) := by decide +kernel

theorem witness_EncodeCommand :
    (4#4).toNat < 8 ∧ readG demo 4#4 = some (.p2 ⟨p2TwoB.x, p2TwoB.y, p2TwoB.z⟩) ∧
      readG demo 1#4 = some (.p3 ⟨p3B.x, p3B.y, p3B.z, p3B.t⟩) ∧ readG demo 0#4 = none ∧ (2 : Fe) ≠ 0 := by
  decide +kernel

/-- A string of each kind: y = 2 is no point, `B[1]` is `B` (V-G3). -/
theorem witness_DecodeCommands :
    decodePoint (readB (writeB demo 0#4 2#256) 0#4) = none ∧ decodePoint (readB demo 1#4) = some p3B := by
  decide +kernel

/-- `B` has x ≠ 0; y = 1 with the sign bit set has x = 0 (V-G3 row 6). -/
theorem witness_DecodeFindsExactlyThePoints :
    decodePoint (readB demo 1#4) = some p3B ∧ p3B.x ≠ 0 ∧
      decodePoint (hex32 0x0100000000000000000000000000000000000000000000000000000000000080) = some ⟨0, 1, 1, 0⟩ ∧
      decodePoint 2#256 = none := by decide +kernel

theorem witness_TableCommands :
    (7#4).toNat < 8 ∧ 31 < 32 ∧ 8 < 9 ∧ (0x0000081f#32).toNat = 31 + 256 * 8 ∧
      (0x0000f81f#32).toNat = 31 + 256 * (256 - 8) ∧ (7#32).toNat ≤ 7 := by decide

theorem onCurve_basePoint : onCurve basePoint := by unfold onCurve; decide +kernel

theorem p3Represents_p3B : p3Represents p3B basePoint := by unfold p3Represents p3Stands; decide +kernel

theorem witness_ScalarMultCommands :
    (7#4).toNat < 8 ∧ readG demo 1#4 = some (.p3 p3B) ∧ readG demo 0#4 = none ∧ onCurve basePoint ∧
      p3Represents p3B basePoint :=
  ⟨by decide, by decide +kernel, by decide +kernel, onCurve_basePoint, p3Represents_p3B⟩

/-- The scalars where R227's two cases meet: e[63] = 8 keeps the last digit, 9 and 16 drop it (log entry 17 for the
sign of the second). -/
theorem test_baseMultiple_edges :
    baseMultiple (BitVec.ofNat 256 (2 ^ 255)) = 2 ^ 255 ∧
      baseMultiple (BitVec.ofNat 256 (2 ^ 255 + 2 ^ 251)) = -2 ^ 251 ∧
      baseMultiple (BitVec.ofNat 256 (2 ^ 255 + 2 ^ 252)) = 0 ∧ baseMultiple (hex32 allOnes) = -1 ∧
      slideSum (hex32 allOnes) = -1 := by
  decide +kernel

theorem witness_RecodeDigits :
    (BitVec.ofNat 256 (2 ^ 255 - 1)).toNat < 2 ^ 255 ∧ (recode16 (BitVec.ofNat 256 (2 ^ 255 - 1))).getD 63 0 = 8 ∧
      (recode16 (BitVec.ofNat 256 (2 ^ 256 - 1))).getD 63 0 = 16 := by decide +kernel

/-- V-S1, last row: the digits of 2^256 − 1 sum to −1. -/
theorem witness_SlideDigits :
    slide (BitVec.ofNat 256 (2 ^ 256 - 1)) = -1 :: List.replicate 255 0 ∧
      2 ^ 255 ≤ (BitVec.ofNat 256 (2 ^ 256 - 1)).toNat := by decide +kernel

/-- Scalars 0 and 7 agree in the bits that count; u = 9 and u = p + 9 agree mod p (V-X2). -/
theorem witness_LadderInputsAndOutput :
    (∀ j, 3 ≤ j → j < 254 → (0#256).getLsbD j = (7#256).getLsbD j) ∧
      (9#256).toNat % 2 ^ 255 % prime25519 =

    (hex32 0xf6ffffffffffffffffffffffffffffffffffffffffffffffffffffffffffff7f).toNat % 2 ^ 255 % prime25519 := by
  refine ⟨?_, by decide +kernel⟩
  intro j h3 h254
  have h : ∀ j : Fin 254, 3 ≤ j.val → (0#256).getLsbD j.val = (7#256).getLsbD j.val := by decide +kernel
  exact h ⟨j, h254⟩ h3

theorem witness_KeyCommands :
    (7#4).toNat < 8 ∧ (0#4).toNat ≠ 2 * (7#4).toNat ∧ (0#4).toNat ≠ 2 * (7#4).toNat + 1 := by decide

theorem witness_GenerateCommand :
    (0#4).toNat < 8 ∧ (2#4).toNat ≠ 2 * (0#4).toNat ∧ (2#4).toNat ≠ 2 * (0#4).toNat + 1 ∧
      nextDraw demo = some (hex32 0xc5aa8df43f9f837bedb7442f31dcb7b166d38535076f094b85ce3a2e0b4458f7) ∧
      nextDraw { demo with rng := [none] } = none := by decide +kernel

theorem witness_SignAndVerify :
    (7#4).toNat < 8 ∧ (4096#32).toNat ≤ 4096 ∧ (0#32).toNat ≤ 4096 ∧ 4096 < (4097#32).toNat ∧
      ({ demo with msglen := 4096#32 } : State).msglen.toNat ≤ 4096 := by decide

/-- The three ranges of R152 at their ends: p − 1, p, 2^255 − 1, 2^255 (V-F3a). -/
theorem witness_FieldRoundTrip :
    (∃ t, exec (.feFromBytes 0#4 1#4) demo = .next t) ∧
      (BitVec.ofNat 256 (prime25519 - 1)).toNat < prime25519 ∧
      prime25519 ≤ (BitVec.ofNat 256 prime25519).toNat ∧ (BitVec.ofNat 256 (2 ^ 255 - 1)).toNat < 2 ^ 255 ∧
      2 ^ 255 ≤ (BitVec.ofNat 256 (2 ^ 255)).toNat := ⟨⟨_, rfl⟩, by decide +kernel⟩

theorem witness_ScReduceIdempotent :
    (0#4).toNat < 8 ∧ (readW (writeB State.reset 0#4 (BitVec.ofNat 256 (groupOrder - 1))) 0#4).toNat = groupOrder - 1 := by
  decide +kernel

theorem witness_AffineLawIsComplete : onCurve basePoint ∧ onCurve (affineNeg basePoint) ∧ onCurve ⟨0, 1⟩ := by
  refine ⟨onCurve_basePoint, ?_, ?_⟩ <;> unfold onCurve <;> decide +kernel

/-- The points of V-G1 stand for `B`, 2·`B` and the sums they should. -/
theorem witness_FormulasStandForTheGroupLaw :
    p3Stands p3B basePoint ∧ cachedStands cachedB basePoint ∧
      affineSum basePoint basePoint (affineAdd basePoint basePoint) ∧
      affineSum basePoint (affineNeg basePoint) ⟨0, 1⟩ ∧ onCurve basePoint ∧
      p2Stands (p3ToP2 p3B) basePoint ∧ p1p1Stands dbl2B (affineAdd basePoint basePoint) ∧
      p3Represents p3B basePoint ∧ cachedRepresents cachedB basePoint ∧ p2Represents (p3ToP2 p3B) basePoint ∧
      p1p1Represents dbl2B (affineAdd basePoint basePoint) := by
  refine ⟨?_, ?_, ?_, ?_, onCurve_basePoint, ?_, ?_, p3Represents_p3B, ?_, ?_, ?_⟩
  · unfold p3Stands; decide +kernel
  · unfold cachedStands; decide +kernel
  · unfold affineSum; decide +kernel
  · unfold affineSum; decide +kernel
  · unfold p2Stands; decide +kernel
  · unfold p1p1Stands; decide +kernel
  · unfold cachedRepresents cachedStands; decide +kernel
  · unfold p2Represents p2Stands; decide +kernel
  · unfold p1p1Represents p1p1Stands; decide +kernel

/-- A valid point of each format (V-G1). -/
theorem valid_points : p2Valid p2TwoB ∧ p3Valid p3B ∧ p1p1Valid dbl2B ∧ p1p1Valid sum2B ∧ cachedValid cachedB ∧
    precompValid precompB := by
  have h3 : p3Valid p3B := by unfold p3Valid; decide +kernel
  refine ⟨?_, h3, ?_, ?_, ⟨p3B, h3, by decide +kernel⟩, basePoint, onCurve_basePoint, by decide +kernel⟩
  · unfold p2Valid; decide +kernel
  · unfold p1p1Valid; decide +kernel
  · unfold p1p1Valid; decide +kernel

/-- A state whose five non-Empty point registers hold one valid point of each format, with `GE_P3_DBL` pending. -/
theorem witness_ValidPointsAreKept :
    pointsInv (pending 0x0000163a#32) ∧ ∃ t, step (pending 0x0000163a#32) = .next t := by
  refine ⟨?_, ⟨_, rfl⟩⟩
  have h : ∀ r : Reg, readG (pending 0x0000163a#32) r ∈
      [none, some (.p3 p3B), some (.cached cachedB), some (.precomp precompB), some (.p2 p2TwoB), some (.p1p1 dbl2B)] := by
    decide +kernel
  obtain ⟨h2, h3, h1, -, hc, hp⟩ := valid_points
  intro r pt hr
  have hm := h r
  rw [hr] at hm
  simp only [List.mem_cons, Option.some.injEq, List.not_mem_nil, or_false, reduceCtorEq, false_or] at hm
  rcases hm with rfl | rfl | rfl | rfl | rfl
  · exact h3
  · exact hc
  · exact hp
  · exact h2
  · exact h1

/-- A BUSY state with a message in the RAM, and one with an error standing. -/
theorem witness_ControlStateIsKept :
    (controlInv (pending 0x00000117#32) ∧ ∃ t, step (pending 0x00000117#32) = .next t) ∧
      controlInv (takeError (pending 0x00000117#32) .empty) := by
  refine ⟨⟨⟨rfl, fun _ => ⟨rfl, rfl⟩, rfl, rfl⟩, ⟨_, rfl⟩⟩, ⟨?_, ?_, rfl, rfl⟩⟩
  · show 1 ≤ (errWord .empty).toNat ∧ (errWord .empty).toNat ≤ 5
    decide
  · intro h; cases h

/-- An observer who sees a scalar register, or `ARG` beyond its range, breaks the contract of R321; what a check
uses, an Empty mark, he may see. -/
theorem test_leakContract_forbids :
    ¬ leakContract (fun _ s => readB s 1#4) ∧ ¬ leakContract (fun _ s => s.arg) ∧
      checkFacts (.feSq 1#4 1#4) State.reset ≠ checkFacts (.feSq 1#4 1#4) demo := by
  refine ⟨fun h => ?_, fun h => ?_, by decide +kernel⟩
  · exact absurd (h 0x00021050#32 (.x25519 0#4 1#4 2#4) State.reset (writeB State.reset 1#4 1#256) (by decide +kernel)
      rfl rfl (by decide +kernel)) (by decide +kernel)
  · exact absurd (h 0x00000140#32 (.geSelect 1#4) State.reset { State.reset with arg := 0x100#32 } (by decide +kernel)
      rfl rfl (by decide +kernel)) (by decide +kernel)

/-- The all-positive extreme of V-L. -/
def limbsTop : Limbs :=
  ⟨33889976, 16944988, 33889976, 16944988, 33889976, 16944988, 33889976, 16944988, 33889976, 16944988⟩

theorem tight_limbsTop : tight limbsTop ∧ tight (limbsNegate limbsTop) := by
  have h : ∀ f : Limbs, (∀ i ∈ List.range 10, |limbAt f i| ≤ limbBound i) → tight f :=
    fun f hf i hi => hf i (List.mem_range.mpr hi)
  exact ⟨h _ (by decide +kernel), h _ (by decide +kernel)⟩

/-- The two explicit vectors of V-L. -/
theorem test_limbs_extremes :
    limbsMul limbsTop (limbsNegate limbsTop) =
        ⟨-26545030, -4523992, 12223856, 16741131, -16116213, 4451823, 22652583, -7837486, -5687485, 13427638⟩ ∧
      limbsSquareDouble limbsTop =
        ⟨-14018823, 9047985, -24447712, 72170, 32232425, -8903646, 21803698, 15674971, 11374970, 6699156⟩ := by
  decide +kernel

theorem witness_LimbOperationsRefine : tight limbsTop ∧ tight (limbsNegate limbsTop) := tight_limbsTop

/-- The extremes of every range, and a pattern of the largest limbs that a carry chain is spoken of for. -/
theorem witness_LimbBoundsHold :
    tight limbsTop ∧ tight (limbsNegate limbsTop) ∧ 9 < 10 ∧ 10 ≤ 10 ∧ 2 ^ 32 - 1 < 2 ^ 32 ∧
      ∀ i, i < 10 → |limbAt (limbsOf fun _ => 2 ^ 60 - 1) i| < 2 ^ 60 := by
  have h : ∀ i ∈ List.range 10, |limbAt (limbsOf fun _ => 2 ^ 60 - 1) i| < 2 ^ 60 := by decide +kernel
  exact ⟨tight_limbsTop.1, tight_limbsTop.2, by decide, by decide, by decide, fun i hi => h i (List.mem_range.mpr hi)⟩

theorem witness_LimbToBytesIsCanonical : tight limbsTop ∧ tight (limbsNegate limbsTop) := tight_limbsTop

end Sys2Proof.Tests
end

section
/-! SUPPORT. The schedule of one step (R18, R296, R310; log entries 1 and 7), and the properties that define the
constants of R4, with the obligations O7 and O49 that rest on them.
-/
namespace Sys2Proof.Machine

/-! ## The schedule (log entry 1) -/

/-- A listed event is the next one, and it is used up. -/
theorem nextEvent_cons {s : State} {e : Event} {rest : List Event} (h : s.agenda = e :: rest) :
    nextEvent s = (e, { s with agenda := rest }) := by
  simp only [nextEvent, h]

/-- The engine has the turn by a listed event, or because the schedule is empty. -/
theorem nextEvent_of_engineTurn {s : State} {rest : List Event} (h : engineTurn s rest) :
    nextEvent s = (.engine, { s with agenda := rest }) := by
  rcases h with listed | ⟨empty, rfl⟩
  · exact nextEvent_cons listed
  · have unchanged : { s with agenda := [] } = s := by rw [← empty]
    rw [unchanged]
    simp only [nextEvent, empty]

theorem step_of_engineTurn {s : State} {rest : List Event} (h : engineTurn s rest) :
    step s = engineStep { s with agenda := rest } := by
  simp only [step, nextEvent_of_engineTurn h]

theorem step_of_hostEvent {s : State} {rest : List Event} {a : HostAccess} (h : s.agenda = .host a :: rest) :
    step s = hostStep a { s with agenda := rest } := by
  simp only [step, nextEvent_cons h]

theorem step_of_hardResetEvent {s : State} {rest : List Event} (h : s.agenda = .hardReset :: rest) :
    step s = .next (resetEngine { s with agenda := rest }) := by
  simp only [step, nextEvent_cons h]

/-- With BUSY = 0 nothing is pending, so the engine has nothing to complete (R296). -/
theorem engineStep_of_idle {s : State} (h : s.busy = false) : engineStep s = .next s := by
  have nonePending : s.pend = none := by simpa [State.busy] using h
  simp only [engineStep, fetch, nonePending]

/-- An access above the window is the platform's (R67, log entry 7). -/
theorem hostStep_read_outside {o : Nat} (h : Config.windowBytes ≤ o) (w : AccessWidth) (s : State) :
    hostStep (.read o w) s = .fault .offsetOutsideWindow :=
  if_neg (Nat.not_lt.mpr h)

theorem hostStep_write_outside {o : Nat} (h : Config.windowBytes ≤ o) (w : AccessWidth) (v : Word) (s : State) :
    hostStep (.write o w v) s = .fault .offsetOutsideWindow :=
  if_neg (Nat.not_lt.mpr h)

/-- Settles O7, by the event that the schedule holds next. -/
theorem stepFollowsSchedule : Obligations.StepFollowsSchedule := by
  refine ⟨fun s rest hturn hidle => ?_, fun _ _ _ => step_of_hostEvent, fun _ _ => step_of_hardResetEvent,
    fun s o w v habove => ⟨hostStep_read_outside habove w s, hostStep_write_outside habove w v s⟩⟩
  rw [step_of_engineTurn hturn]
  exact engineStep_of_idle hidle

/-! ## The constants (R4) -/

/-- d = −121665 / 121666. -/
theorem constD_mul_121666 : constD.val * 121666 % prime25519 = prime25519 - 121665 := by decide +kernel

theorem constD2_val : constD2.val = 2 * constD.val % prime25519 := by
  rw [constD2_eq, fe_add_val, two_mul]

theorem constSqrtM1_val_sq : constSqrtM1.val ^ 2 % prime25519 = prime25519 - 1 := by
  rw [pow_two, ← fe_mul_val, constSqrtM1_sq]
  decide +kernel

/-- `SQRTM1` as a power of 2; square and multiply stands for the power, which is too large to evaluate. -/
theorem constSqrtM1_val_eq_pow (two : Nat) (h : two = 2) :
    constSqrtM1.val = two ^ ((prime25519 - 1) / 4) % prime25519 := by
  have small : (prime25519 - 1) / 4 < 2 ^ 256 := by decide +kernel
  rw [← powMod_eq prime25519 two 256 _ small, h]
  decide +kernel

/-- The y of B is 4/5. -/
theorem basePoint_y : 5 * basePoint.y.val % prime25519 = 4 := by decide +kernel

/-- The x of B is even. -/
theorem basePoint_x_even : basePoint.x.val % 2 = 0 := by decide +kernel

/-- ℓ·B is the neutral element: the 64 additions and the encoding, evaluated (R226). -/
theorem encodePoint_groupOrder_mul_base :
    encodePoint (p3ToP2 (scalarmultBase (BitVec.ofNat 256 groupOrder))) = 1#256 := by decide +kernel

/-- Settles O49: each constant by its own lemma, and the digits of p, ℓ and the two exponents by evaluation. -/
theorem constantsMeetTheirDefinitions : Obligations.ConstantsMeetTheirDefinitions :=
  ⟨by decide +kernel, constD_mul_121666, constD2_val, constSqrtM1_val_sq, constSqrtM1_val_eq_pow,
    Tests.onCurve_basePoint, basePoint_y, basePoint_x_even, by decide +kernel, groupOrder_prime,
    encodePoint_groupOrder_mul_base, by decide +kernel, by decide +kernel⟩

end Sys2Proof.Machine
end

section
/-! SUPPORT. The frame of the commands (R28, R29, R36, R37, R43, R273): a command's effect is a chain of writes to
its own destinations, so one inversion lemma of `exec` gives what every command leaves unchanged, with the
obligations O22 and O23 that rest on it.
-/
namespace Sys2Proof.Machine

/-! ## Chains of writes to the destinations of a write set -/

/-- `t` comes from `s` by writes to registers of `ws`, and to `T` where `ws` has it (R43). -/
inductive WritesOnly (ws : WriteSet) (s : State) : State → Prop
  | refl : WritesOnly ws s s
  | putF {t : State} {r : Reg} {v : Option Fe} (mem : r ∈ ws.f) (h : WritesOnly ws s t) : WritesOnly ws s (putF t r v)
  | putG {t : State} {r : Reg} {v : Option Point} (mem : r ∈ ws.g) (h : WritesOnly ws s t) :
      WritesOnly ws s (putG t r v)
  | writeB {t : State} {r : Reg} {v : Bytes32} (mem : r ∈ ws.b) (h : WritesOnly ws s t) :
      WritesOnly ws s (writeB t r v)
  | setT {t : State} {v : Bool} (mem : ws.t = true) (h : WritesOnly ws s t) : WritesOnly ws s (setT t v)

namespace WritesOnly

variable {ws : WriteSet} {s t : State} {r : Reg}

theorem readF_eq (h : WritesOnly ws s t) (hr : r ∉ ws.f) : readF t r = readF s r := by
  induction h with
  | refl => rfl
  | putF mem _ ih => rw [readF_putF_other _ _ _ _ (ne_of_mem_of_not_mem mem hr).symm, ih]
  | putG _ _ ih => rw [readF_putG, ih]
  | writeB _ _ ih => rw [readF_writeB, ih]
  | setT _ _ ih => rw [readF_setT, ih]

theorem readG_eq (h : WritesOnly ws s t) (hr : ∀ d ∈ ws.g, gIndex d ≠ gIndex r) : readG t r = readG s r := by
  induction h with
  | refl => rfl
  | putF _ _ ih => rw [readG_putF, ih]
  | putG mem _ ih => rw [readG_putG_other _ _ _ _ (hr _ mem).symm, ih]
  | writeB _ _ ih => rw [readG_writeB, ih]
  | setT _ _ ih => rw [readG_setT, ih]

theorem readB_eq (h : WritesOnly ws s t) (hr : r ∉ ws.b) : readB t r = readB s r := by
  induction h with
  | refl => rfl
  | putF _ _ ih => rw [readB_putF, ih]
  | putG _ _ ih => rw [readB_putG, ih]
  | writeB mem _ ih => rw [readB_writeB_other _ _ _ _ (ne_of_mem_of_not_mem mem hr).symm, ih]
  | setT _ _ ih => rw [readB_setT, ih]

theorem flagT_eq (h : WritesOnly ws s t) (ht : ws.t = false) : t.flagT = s.flagT := by
  induction h with
  | refl => rfl
  | putF _ _ ih => rw [putF_flagT, ih]
  | putG _ _ ih => rw [putG_flagT, ih]
  | writeB _ _ ih => rw [writeB_flagT, ih]
  | setT mem => rw [ht] at mem; cases mem

/-- Every field but the three register files and `T` is as it was. -/
theorem eq_registers (h : WritesOnly ws s t) : t = { s with b := t.b, f := t.f, g := t.g, flagT := t.flagT } := by
  induction h with
  | refl => rfl
  | putF _ _ ih => exact congrArg (Machine.putF · _ _) ih
  | putG _ _ ih => exact congrArg (Machine.putG · _ _) ih
  | writeB _ _ ih => exact congrArg (Machine.writeB · _ _) ih
  | setT _ _ ih => exact congrArg (Machine.setT · _) ih

theorem writeW {v : Bytes64} (low : wLow r ∈ ws.b) (high : wHigh r ∈ ws.b) (h : WritesOnly ws s t) :
    WritesOnly ws s (writeW t r v) := .writeB high (.writeB low h)

theorem putDecoded {p : Option P3} (mem : r ∈ ws.g) (flag : ws.t = true) (h : WritesOnly ws s t) :
    WritesOnly ws s (putDecoded t r p) := by
  cases p with
  | none => exact .setT flag (.putG mem h)
  | some v => exact .setT flag (.putG mem h)

theorem putKeyPair {q : Reg} {key : Bytes64 × Bytes32} (low : wLow r ∈ ws.b) (high : wHigh r ∈ ws.b) (pk : q ∈ ws.b)
    (h : WritesOnly ws s t) : WritesOnly ws s (putKeyPair t r q key) := .writeB pk (.writeW low high h)

end WritesOnly

/-! ## Effects: an error, or a chain of writes -/

/-- Where the effect is no error, it is a chain of writes to `ws`. -/
def EffectWrites (ws : WriteSet) (s : State) (effect : Except ErrCode State) : Prop :=
  ∀ t, effect = .ok t → WritesOnly ws s t

namespace EffectWrites

variable {ws : WriteSet} {s t : State} {rd ra rb : Reg}

theorem ok (h : WritesOnly ws s t) : EffectWrites ws s (.ok t) := by
  rintro _ ⟨⟩
  exact h

theorem error (e : ErrCode) : EffectWrites ws s (.error e) := nofun

/-- A check in front of an effect can only turn it into an error. -/
theorem bind {α : Type} {check : Except ErrCode α} {effect : α → Except ErrCode State}
    (h : ∀ a, EffectWrites ws s (effect a)) : EffectWrites ws s (check >>= effect) := by
  cases check with
  | error e => exact error e
  | ok a => exact h a

theorem feUnary {op : Fe → Fe} (mem : rd ∈ ws.f) : EffectWrites ws s (feUnary s rd ra op) :=
  .bind fun _ => .ok (.putF mem .refl)

theorem feBinary {op : Fe → Fe → Fe} (mem : rd ∈ ws.f) : EffectWrites ws s (feBinary s rd ra rb op) :=
  .bind fun _ => .bind fun _ => .ok (.putF mem .refl)

theorem geUnary {α : Type} {need : State → Reg → Except ErrCode α} {op : α → Point} (mem : rd ∈ ws.g) :
    EffectWrites ws s (geUnary s rd ra need op) :=
  .bind fun _ => .ok (.putG mem .refl)

theorem geBinary {α : Type} {need : State → Reg → Except ErrCode α} {op : P3 → α → P1P1} (mem : rd ∈ ws.g) :
    EffectWrites ws s (geBinary s rd ra rb need op) :=
  .bind fun _ => .bind fun _ => .ok (.putG mem .refl)

theorem generateFrom {draw : Option Bytes32} (low : wLow rd ∈ ws.b) (high : wHigh rd ∈ ws.b) (pk : ra ∈ ws.b) :
    EffectWrites ws s (generateFrom s rd ra draw) := by
  cases draw with
  | none => exact error _
  | some seed => exact ok (.putKeyPair low high pk .refl)

end EffectWrites

/-! ## Everything a command can do -/

/-- The state a command works on: the state it finds or, for `ED_GENERATE`, that state after the draw (R254). -/
def WorksOn (i : Instr) (s s0 : State) : Prop := s0 = s ∨ (s0 = takeDraw s ∧ ∃ rd ra, i = .edGenerate rd ra)

/-- The three ways a command completes: with an error, with a chain of writes to its destinations, or as
`WIPE_ALL` (R121, R281, R296). -/
inductive Completes (i : Instr) (s : State) : State → Prop
  | error {s0 : State} (e : ErrCode) (work : WorksOn i s s0) : Completes i s (takeError s0 e)
  | writes {s0 s1 : State} (work : WorksOn i s s0) (h : WritesOnly (writesOf i) s0 s1) : Completes i s (finish s1)
  | wiped (h : i = .wipeAll) : Completes i s (finish (wipeAll s))

theorem completes_of_command {i : Instr} {s s0 t : State} {effect : Except ErrCode State} (work : WorksOn i s s0)
    (h : command i s0 effect = .next t) (writes : EffectWrites (writesOf i) s0 effect) : Completes i s t := by
  obtain ⟨e, rfl⟩ | ⟨s1, hok, -, rfl⟩ := command_cases h
  · exact .error e work
  · exact .writes work (writes s1 hok)

/-- The inversion of `exec`: what the 49 commands can do. -/
theorem exec_cases {i : Instr} {s t : State} (h : exec i s = .next t) : Completes i s t := by
  have single {d : Reg} : d ∈ [d] := List.mem_singleton_self d
  have atSelf {effect : Except ErrCode State} : command i s effect = .next t →
      EffectWrites (writesOf i) s effect → Completes i s t := completes_of_command (.inl rfl)
  cases i
  case nop => exact atSelf h (.ok .refl)
  case wipeAll =>
    obtain ⟨⟩ := h
    exact .wiped rfl
  case feWipe | feZero | feOne | feFromBytes => exact atSelf h (.ok (.putF single .refl))
  case geWipe | geIdent | geScalarmultBase => exact atSelf h (.ok (.putG single .refl))
  case bWipe | scReduce | scMuladd | x25519 | x25519Base => exact atSelf h (.ok (.writeB single .refl))
  case scCheckLtL => exact atSelf h (.ok (.setT rfl .refl))
  case feSq | feSq2 | feMulSmall | feInvert | fePow2523 | feNeg => exact atSelf h (.feUnary single)
  case feAdd | feSub | feMul => exact atSelf h (.feBinary single)
  case geP3ToCached | geP3ToP2 | geP1p1ToP2 | geP1p1ToP3 | geP2Dbl | geP3Dbl => exact atSelf h (.geUnary single)
  case geAdd | geSub | geMadd | geMsub => exact atSelf h (.geBinary single)
  case feIsNeg | feIsNz | edVerify => exact atSelf h (.bind fun _ => .ok (.setT rfl .refl))
  case feToBytes | geEncode => exact atSelf h (.bind fun _ => .ok (.writeB single .refl))
  case geSelect | geLoadBi | geDoubleScalarmultVt => exact atSelf h (.bind fun _ => .ok (.putG single .refl))
  case feCswap =>
    exact atSelf h (.bind fun _ => .bind fun _ => .ok (.putF (by simp [writesOf]) (.putF (by simp [writesOf]) .refl)))
  case geDecode | geDecodeNeg => exact atSelf h (.ok (.putDecoded single rfl .refl))
  case edFromSeed | edFrom =>
    exact atSelf h (.bind fun _ => .ok
      (.putKeyPair (by simp [writesOf]) (by simp [writesOf]) (by simp [writesOf]) .refl))
  case edSign =>
    exact atSelf h (.bind fun _ => .ok (.writeW (by simp [writesOf]) (by simp [writesOf]) .refl))
  case edGenerate rd ra =>
    simp only [exec, execEdGenerate] at h
    split at h
    · exact completes_of_command (.inr ⟨rfl, rd, ra, rfl⟩) h
        (.generateFrom (by simp [writesOf]) (by simp [writesOf]) (by simp [writesOf]))
    · exact atSelf h (.error _)

/-! ## What a draw leaves alone (R273) -/

namespace WorksOn

variable {i : Instr} {s s0 : State} {r : Reg}

theorem eq_draws (work : WorksOn i s s0) : s0 = { s with rng := s0.rng, draws := s0.draws } := by
  obtain rfl | ⟨rfl, -⟩ := work
  · rfl
  · unfold takeDraw
    split <;> rfl

theorem eq_self (work : WorksOn i s s0) (h : ∀ rd ra, i ≠ .edGenerate rd ra) : s0 = s := by
  obtain rfl | ⟨-, rd, ra, rfl⟩ := work
  · rfl
  · exact absurd rfl (h rd ra)

theorem readF_eq (work : WorksOn i s s0) : readF s0 r = readF s r := by rw [work.eq_draws]; rfl

theorem readG_eq (work : WorksOn i s s0) : readG s0 r = readG s r := by rw [work.eq_draws]; rfl

theorem readB_eq (work : WorksOn i s s0) : readB s0 r = readB s r := by rw [work.eq_draws]; rfl

theorem flagT_eq (work : WorksOn i s s0) : s0.flagT = s.flagT := by rw [work.eq_draws]

theorem err_eq (work : WorksOn i s s0) : s0.err = s.err := by rw [work.eq_draws]

end WorksOn

/-! ## What a completed command leaves unchanged -/

theorem mem_allRegs (r : Reg) : r ∈ allRegs := by
  revert r
  decide

namespace Completes

variable {i : Instr} {s t : State} {r : Reg}

theorem readF_eq (h : Completes i s t) (hr : r ∉ (writesOf i).f) : readF t r = readF s r := by
  cases h with
  | error e work => rw [readF_takeError, work.readF_eq]
  | writes work hw => rw [readF_finish, hw.readF_eq hr, work.readF_eq]
  | wiped hi => subst hi; exact absurd (mem_allRegs r) hr

theorem readG_eq (h : Completes i s t) (hr : ∀ d ∈ (writesOf i).g, gIndex d ≠ gIndex r) : readG t r = readG s r := by
  cases h with
  | error e work => rw [readG_takeError, work.readG_eq]
  | writes work hw => rw [readG_finish, hw.readG_eq hr, work.readG_eq]
  | wiped hi => subst hi; exact absurd rfl (hr r (mem_allRegs r))

theorem readB_eq (h : Completes i s t) (hr : r ∉ (writesOf i).b) : readB t r = readB s r := by
  cases h with
  | error e work => rw [readB_takeError, work.readB_eq]
  | writes work hw => rw [readB_finish, hw.readB_eq hr, work.readB_eq]
  | wiped hi => subst hi; exact absurd (mem_allRegs r) hr

theorem flagT_eq (h : Completes i s t) (ht : (writesOf i).t = false) : t.flagT = s.flagT := by
  cases h with
  | error e work => rw [takeError_flagT, work.flagT_eq]
  | writes work hw => rw [finish_flagT, hw.flagT_eq ht, work.flagT_eq]
  | wiped hi => subst hi; cases ht

/-- Only an error sets ERR, and an error leaves `T` (R28, R281). -/
theorem flagT_eq_of_err (h : Completes i s t) (before : s.err = false) (after : t.err = true) : t.flagT = s.flagT := by
  cases h with
  | error e work => rw [takeError_flagT, work.flagT_eq]
  | writes work hw => rw [finish_err, hw.eq_registers, work.err_eq, before] at after; cases after
  | wiped hi => rw [finish_err, show (wipeAll s).err = s.err from rfl, before] at after; cases after

/-- Only `WIPE_ALL` touches `ARG`, `MSGLEN` and the message RAM (R29, R36, R37). -/
theorem host_storage_eq (h : Completes i s t) (hi : i ≠ .wipeAll) :
    t.arg = s.arg ∧ t.msglen = s.msglen ∧ t.msg = s.msg := by
  cases h with
  | error e work => rw [work.eq_draws]; exact ⟨rfl, rfl, rfl⟩
  | writes work hw => rw [hw.eq_registers, work.eq_draws]; exact ⟨rfl, rfl, rfl⟩
  | wiped h => exact absurd h hi

/-- Only `ED_GENERATE` draws (R273). -/
theorem random_port_eq (h : Completes i s t) (hi : ∀ rd ra, i ≠ .edGenerate rd ra) :
    t.rng = s.rng ∧ t.draws = s.draws := by
  cases h with
  | error e work => rw [work.eq_self hi]; exact ⟨rfl, rfl⟩
  | writes work hw => rw [hw.eq_registers, work.eq_self hi]; exact ⟨rfl, rfl⟩
  | wiped _ => exact ⟨rfl, rfl⟩

/-- No command reaches IE, ACCV, the schedule or the last value read. -/
theorem outside_eq (h : Completes i s t) :
    t.ie = s.ie ∧ t.accv = s.accv ∧ t.agenda = s.agenda ∧ t.rdata = s.rdata := by
  cases h with
  | error e work => rw [work.eq_draws]; exact ⟨rfl, rfl, rfl, rfl⟩
  | writes work hw => rw [hw.eq_registers, work.eq_draws]; exact ⟨rfl, rfl, rfl, rfl⟩
  | wiped _ => exact ⟨rfl, rfl, rfl, rfl⟩

end Completes

/-- Settles O23: each clause is what the inversion of `exec` leaves unchanged. -/
theorem commandFrame : Obligations.CommandFrame := by
  intro i s t h
  have done := exec_cases h
  refine ⟨fun _ => done.readF_eq, fun _ => done.readG_eq, fun _ => done.readB_eq, done.flagT_eq, fun hi => ?_,
    done.random_port_eq, done.outside_eq⟩
  obtain ⟨harg, hlen, hmsg⟩ := done.host_storage_eq hi
  exact ⟨harg, hlen, fun a => by rw [hmsg]⟩

/-- The opcodes of R28's list are those of the commands with `T` in their write set. -/
theorem writesOf_t_of_opcode {i : Instr} (h : i.opcode ∉ [0x1C#8, 0x1D#8, 0x22#8, 0x3C#8, 0x3D#8, 0x64#8, 0x01#8]) :
    (writesOf i).t = false := by
  cases i
  case wipeAll | feIsNeg | feIsNz | scCheckLtL | geDecode | geDecodeNeg | edVerify =>
    exact absurd (by simp [Instr.opcode]) h
  all_goals rfl

/-- Settles O22: the frame's clause on `T`, `WIPE_ALL` evaluated, and the error case of the inversion. -/
theorem onlySixCommandsWriteT : Obligations.OnlySixCommandsWriteT := by
  intro i s t h
  refine ⟨fun hop => (exec_cases h).flagT_eq (writesOf_t_of_opcode hop), fun hi => ?_, (exec_cases h).flagT_eq_of_err⟩
  subst hi
  obtain ⟨⟩ := h
  rfl

end Sys2Proof.Machine
end

section
/-! SUPPORT. The host's accesses (R29 to R36, R61 to R68): aligned word accesses to the registers, `STATUS` and the MSG
window, and what no access can tell apart (R23, R26, R40), with the obligations O12, O14, O15, O18 and O57.
-/
namespace Sys2Proof.Machine

/-! ## Aligned word accesses (R61, R65) -/

theorem hostStep_read_word {o : Nat} (s : State) (inside : o < Config.windowBytes) (aligned : o % 4 = 0) :
    hostStep (.read o .w32) s = .next (readWord32 o s) := by
  simp only [hostStep, accessOk, inside, aligned, decide_true, Bool.and_self, if_true]

theorem hostStep_write_word {o : Nat} (s : State) (v : Word) (inside : o < Config.windowBytes) (aligned : o % 4 = 0) :
    hostStep (.write o .w32 v) s = .next (writeWord32 o s v) := by
  simp only [hostStep, accessOk, inside, aligned, decide_true, Bool.and_self, if_true]

/-! ## The registers below the windows -/

/-- `CTRL` reads as IE in bit 0 (R35). -/
theorem ctrlWord_eq (s : State) : ctrlWord s = if s.ie then 1#32 else 0#32 := by
  unfold ctrlWord
  cases s.ie <;> rfl

/-- The five flags of `STATUS` are its bits 0 to 4 (R31). -/
theorem statusWord_toNat (s : State) :
    (statusWord s).toNat =
      s.busy.toNat + 2 * s.done.toNat + 4 * s.err.toNat + 8 * s.flagT.toNat + 16 * s.accv.toNat := by
  have layout : ∀ busy done err flagT accv : Bool,
      (0#27 ++ BitVec.ofBool accv ++ BitVec.ofBool flagT ++ BitVec.ofBool err ++ BitVec.ofBool done ++
        BitVec.ofBool busy).toNat =
        busy.toNat + 2 * done.toNat + 4 * err.toNat + 8 * flagT.toNat + 16 * accv.toNat := by decide
  exact layout s.busy s.done s.err s.flagT s.accv

/-- The three write-one-to-clear bits act each on its own flag (R31). -/
theorem writeStatus_eq (s : State) (v : Word) :
    writeStatus s v = { s with
      done := s.done && !v.getLsbD 1
      err := s.err && !v.getLsbD 2
      accv := s.accv && !v.getLsbD 4
      errcode := if v.getLsbD 2 then 0#32 else s.errcode } := by
  unfold writeStatus clearError
  cases v.getLsbD 1 <;> cases v.getLsbD 2 <;> cases v.getLsbD 4 <;> simp

theorem writeCtrl_of_no_reset (s : State) {v : Word} (h : v.getLsbD 1 = false) :
    writeCtrl s v = { s with ie := v.getLsbD 0 } := by
  simp only [writeCtrl, h, Bool.false_eq_true, if_false]

theorem writeWord32_arg {s : State} (idle : s.busy = false) (v : Word) :
    writeWord32 0x8 s v = { s with arg := v } := by
  simp [writeWord32, idle]

theorem writeWord32_msglen {s : State} (idle : s.busy = false) (v : Word) :
    writeWord32 0x18 s v = { s with msglen := v } := by
  simp [writeWord32, idle]

/-- Settles O12, register by register. -/
theorem registerReadsAndWrites : Obligations.RegisterReadsAndWrites := by
  intro s v
  refine ⟨rfl, rfl, rfl, rfl, ?ctrlRead, rfl, rfl, rfl, fun noReset => ?ctrlWrite, fun idle => ⟨?arg, ?msglen⟩⟩
  case ctrlRead => rw [← ctrlWord_eq]; rfl
  case ctrlWrite => exact congrArg _ (writeCtrl_of_no_reset s noReset)
  case arg => rw [hostStep_write_word s v (by decide) rfl, writeWord32_arg idle]
  case msglen => rw [hostStep_write_word s v (by decide) rfl, writeWord32_msglen idle]

/-- Settles O15: the layout of the word, and the three bits of the write. -/
theorem statusRegister : Obligations.StatusRegister :=
  fun s v => ⟨⟨statusWord s, rfl, statusWord_toNat s⟩, congrArg _ (writeStatus_eq s v)⟩

/-! ## The MSG window (R62, R64) -/

/-- The lowest byte of a byte string that ends in `lo` (R9). -/
theorem byteAt_append_zero {w : Nat} (hi : BitVec w) (lo : Byte) : byteAt (hi ++ lo) 0 = lo := by
  apply BitVec.eq_of_getLsbD_eq
  intro j hj
  rw [byteAt_getLsbD _ _ _ hj, BitVec.getLsbD_append]
  simp [hj]

/-- The bytes above it. -/
theorem byteAt_append_succ {w : Nat} (hi : BitVec w) (lo : Byte) (i : Nat) : byteAt (hi ++ lo) (i + 1) = byteAt hi i := by
  apply BitVec.eq_of_getLsbD_eq
  intro j hj
  rw [byteAt_getLsbD _ _ _ hj, byteAt_getLsbD _ _ _ hj, BitVec.getLsbD_append, if_neg (by omega)]
  congr 1
  omega

/-- Byte `j` of a little-endian word of the RAM is `MSG[a+j]` (R62). -/
theorem byteAt_memReadWord (m : Memory) (a : Nat) {j : Nat} (hj : j < 4) :
    byteAt (memReadWord m a) j = memRead m (a + j) := by
  unfold memReadWord
  match j, hj with
  | 0, _ => rw [byteAt_append_zero, Nat.add_zero]
  | 1, _ => rw [byteAt_append_succ, byteAt_append_zero]
  | 2, _ => rw [byteAt_append_succ, byteAt_append_succ, byteAt_append_zero]
  | 3, _ => rw [byteAt_append_succ, byteAt_append_succ, byteAt_append_succ]; exact BitVec.extractLsb'_eq_self

theorem inMsg_add {a : Nat} (ha : a < Config.msgBytes) : inMsg (0x1000 + a) = true :=
  Bool.and_eq_true_iff.mpr ⟨decide_eq_true (Nat.le_add_right _ _), decide_eq_true (Nat.add_lt_add_left ha _)⟩

theorem inBreg_add (a : Nat) : inBreg (0x1000 + a) = false :=
  Bool.and_eq_false_iff.mpr (.inr (decide_eq_false (by omega)))

/-- The registers lie below the windows (R61). -/
theorem msgOffset_ne {a k : Nat} (hk : k < 0x1000) : 0x1000 + a ≠ k := by omega

/-- A read in the MSG window of an idle engine (R62, R64). -/
theorem readWord32_msg {s : State} {a : Nat} (ha : a < Config.msgBytes) (idle : s.busy = false) :
    readWord32 (0x1000 + a) s = respond s (memReadWord s.msg a) := by
  simp [readWord32, inBreg_add, inMsg_add ha, msgOffset_ne, idle]

/-- A write in the MSG window of an idle engine (R62, R64). -/
theorem writeWord32_msg {s : State} {a : Nat} (ha : a < Config.msgBytes) (idle : s.busy = false) (v : Word) :
    writeWord32 (0x1000 + a) s v = { s with msg := memWriteWord s.msg a v } := by
  simp [writeWord32, inBreg_add, inMsg_add ha, msgOffset_ne, idle]

/-- Settles O14: the bytes of the word that is read, and the word write of the RAM. -/
theorem msgWindow : Obligations.MsgWindow := by
  intro s a v aligned ha idle ⟨wf, inRam⟩
  have inside : 0x1000 + a < Config.windowBytes := Nat.add_lt_add_left ha _
  have aligned' : (0x1000 + a) % 4 = 0 := by omega
  refine ⟨⟨memReadWord s.msg a, ?read, fun j => byteAt_memReadWord s.msg a⟩,
    ⟨{ s with msg := memWriteWord s.msg a v }, ?write, rfl, ⟨memWriteWord_wf a v wf, memWriteWord_inRam v ?last inRam⟩,
      fun j hj => memRead_memWriteWord_same v hj wf, fun c hc => memRead_memWriteWord_other v hc wf⟩⟩
  case read => rw [hostStep_read_word s inside aligned', readWord32_msg ha idle]; rfl
  case write => rw [hostStep_write_word s v inside aligned', writeWord32_msg ha idle]
  case last => show a + 3 < 4096; omega

/-! ## The state after reset (R42, R310) -/

theorem readG_reset (r : Reg) : readG State.reset r = none := by
  revert r
  decide

/-- Settles O57: no point register holds a point, no error stands, nothing is pending, the RAM is empty. -/
theorem invariantsHoldAtReset : Obligations.InvariantsHoldAtReset := by
  refine ⟨fun r pt h => ?points, rfl, fun h => ?pending, rfl, rfl⟩
  case points => rw [readG_reset] at h; cases h
  case pending => cases h

/-! ## What no access can tell apart (R23, R26, R40) -/

namespace hostEquivalent

variable {s t s' t' : State}

/-- A branch on what both states agree on. -/
theorem ite {c : Prop} [Decidable c] (yes : c → hostEquivalent s t) (no : ¬ c → hostEquivalent s' t') :
    hostEquivalent (if c then s else s') (if c then t else t') := by
  by_cases hc : c
  · rw [if_pos hc, if_pos hc]
    exact yes hc
  · rw [if_neg hc, if_neg hc]
    exact no hc

variable (h : hostEquivalent s t)
include h

theorem busy_eq : s.busy = t.busy := h.1

/-- While BUSY = 0 the host may look at the operand storage (R66). -/
theorem storage_eq (idle : ¬ t.busy = true) : s.b = t.b ∧ s.msg = t.msg := by
  obtain ⟨busy, -, -, -, -, -, -, -, -, -, storage⟩ := h
  exact storage (by rw [busy]; exact Bool.eq_false_iff.mpr idle)

theorem statusWord_eq : statusWord s = statusWord t := by
  obtain ⟨busy, flagT, -, done, err, accv, -, -, -, -, -⟩ := h
  simp only [statusWord, busy, flagT, done, err, accv]

theorem respond {v w : Word} (same : v = w) : hostEquivalent (respond s v) (respond t w) := by
  obtain ⟨busy, flagT, arg, done, err, accv, errcode, ie, msglen, -, storage⟩ := h
  exact ⟨busy, flagT, arg, done, err, accv, errcode, ie, msglen, congrArg some same, storage⟩

theorem setAccv : hostEquivalent (setAccv s) (setAccv t) := by
  obtain ⟨busy, flagT, arg, done, err, -, errcode, ie, msglen, rdata, storage⟩ := h
  exact ⟨busy, flagT, arg, done, err, rfl, errcode, ie, msglen, rdata, storage⟩

theorem refuseRead : hostEquivalent (refuseRead s) (refuseRead t) := (h.respond rfl).setAccv

theorem setArg (v : Word) : hostEquivalent { s with arg := v } { t with arg := v } := by
  obtain ⟨busy, flagT, -, done, err, accv, errcode, ie, msglen, rdata, storage⟩ := h
  exact ⟨busy, flagT, rfl, done, err, accv, errcode, ie, msglen, rdata, storage⟩

theorem setMsglen (v : Word) : hostEquivalent { s with msglen := v } { t with msglen := v } := by
  obtain ⟨busy, flagT, arg, done, err, accv, errcode, ie, -, rdata, storage⟩ := h
  exact ⟨busy, flagT, arg, done, err, accv, errcode, ie, rfl, rdata, storage⟩

/-- Both engines are BUSY after the issue, so their storage is hidden (R295). -/
theorem issue (w : Word) : hostEquivalent (issue s w) (issue t w) := by
  obtain ⟨-, flagT, arg, -, err, accv, errcode, ie, msglen, rdata, -⟩ := h
  exact ⟨rfl, flagT, arg, rfl, err, accv, errcode, ie, msglen, rdata, nofun⟩

theorem writeCmd (w : Word) : hostEquivalent (writeCmd s w) (writeCmd t w) := by
  have same : (s.busy || s.err) = (t.busy || t.err) := by
    obtain ⟨busy, -, -, -, err, -⟩ := h
    rw [busy, err]
  simp only [Machine.writeCmd, same]
  exact .ite (fun _ => h.setAccv) fun _ => h.issue w

theorem writeStatus (v : Word) : hostEquivalent (writeStatus s v) (writeStatus t v) := by
  obtain ⟨busy, flagT, arg, done, err, accv, errcode, ie, msglen, rdata, storage⟩ := h
  rw [writeStatus_eq, writeStatus_eq, done, err, accv, errcode]
  exact ⟨busy, flagT, arg, rfl, rfl, rfl, rfl, ie, msglen, rdata, storage⟩

/-- A reset gives both the same storage (R311). -/
theorem resetEngine : hostEquivalent (resetEngine s) (resetEngine t) := by
  obtain ⟨-, -, -, -, -, -, -, -, -, rdata, -⟩ := h
  exact ⟨rfl, rfl, rfl, rfl, rfl, rfl, rfl, rfl, rfl, rdata, fun _ => ⟨rfl, rfl⟩⟩

theorem writeCtrl (v : Word) : hostEquivalent (writeCtrl s v) (writeCtrl t v) := by
  refine .ite (fun _ => h.resetEngine) fun _ => ?_
  obtain ⟨busy, flagT, arg, done, err, accv, errcode, -, msglen, rdata, storage⟩ := h
  exact ⟨busy, flagT, arg, done, err, accv, errcode, rfl, msglen, rdata, storage⟩

theorem writeBreg (idle : ¬ t.busy = true) (o : Nat) (v : Word) :
    hostEquivalent (writeBreg o s v) (writeBreg o t v) := by
  obtain ⟨b, msg⟩ := h.storage_eq idle
  obtain ⟨busy, flagT, arg, done, err, accv, errcode, ie, msglen, rdata, -⟩ := h
  refine ⟨busy, flagT, arg, done, err, accv, errcode, ie, msglen, rdata, fun _ => ⟨?_, msg⟩⟩
  simp only [Machine.writeBreg, writeB, readB, b]

theorem writeMsg (idle : ¬ t.busy = true) (a : Nat) (v : Word) :
    hostEquivalent { s with msg := memWriteWord s.msg a v } { t with msg := memWriteWord t.msg a v } := by
  obtain ⟨b, msg⟩ := h.storage_eq idle
  obtain ⟨busy, flagT, arg, done, err, accv, errcode, ie, msglen, rdata, -⟩ := h
  exact ⟨busy, flagT, arg, done, err, accv, errcode, ie, msglen, rdata, fun _ => ⟨b, by rw [msg]⟩⟩

/-- The reads in the order of the register map (R61); the windows answer from the storage only while BUSY = 0. -/
theorem readWord32 (o : Nat) : hostEquivalent (readWord32 o s) (readWord32 o t) := by
  simp only [Machine.readWord32, h.busy_eq]
  refine .ite (fun _ => h.respond rfl) fun _ => .ite (fun _ => h.respond rfl) fun _ =>
    .ite (fun _ => h.respond ?arg) fun _ => .ite (fun _ => h.respond h.statusWord_eq) fun _ =>
    .ite (fun _ => h.respond ?errcode) fun _ => .ite (fun _ => h.respond ?ctrl) fun _ =>
    .ite (fun _ => h.respond ?msglen) fun _ =>
    .ite (fun _ => .ite (fun _ => h.refuseRead) fun idle => h.respond ?breg) fun _ =>
    .ite (fun _ => .ite (fun _ => h.refuseRead) fun idle => h.respond ?msg) fun _ => h.refuseRead
  case breg => rw [readB, readB, (h.storage_eq idle).1]
  case msg => rw [(h.storage_eq idle).2]
  all_goals
    obtain ⟨-, -, arg, -, -, -, errcode, ie, msglen, -, -⟩ := h
    simp only [arg, errcode, ctrlWord, ie, msglen]

/-- The writes in the order of the register map (R61). -/
theorem writeWord32 (o : Nat) (v : Word) : hostEquivalent (writeWord32 o s v) (writeWord32 o t v) := by
  simp only [Machine.writeWord32, h.busy_eq]
  exact .ite (fun _ => h.writeCmd v) fun _ =>
    .ite (fun _ => .ite (fun _ => h.setAccv) fun _ => h.setArg v) fun _ =>
    .ite (fun _ => h.writeStatus v) fun _ => .ite (fun _ => h.writeCtrl v) fun _ =>
    .ite (fun _ => .ite (fun _ => h.setAccv) fun _ => h.setMsglen v) fun _ =>
    .ite (fun _ => .ite (fun _ => h.setAccv) fun idle => h.writeBreg idle o v) fun _ =>
    .ite (fun _ => .ite (fun _ => h.setAccv) fun idle => h.writeMsg idle _ v) fun _ => h.setAccv

end hostEquivalent

/-- Two accesses that complete in states alike are alike themselves. -/
theorem next_alike {s t : State} (h : hostEquivalent s t) :
    (∀ s', (.next s : Outcome) = .next s' → ∃ t', (.next t : Outcome) = .next t' ∧ hostEquivalent s' t') ∧
      ∀ r, (.next s : Outcome) = .fault r → (.next t : Outcome) = .fault r := by
  refine ⟨?_, nofun⟩
  rintro _ ⟨⟩
  exact ⟨t, rfl, h⟩

/-- Settles O18: inside the window by the access's effect on both states; outside it both stop with the same fault. -/
theorem hostCannotSeeHiddenState : Obligations.HostCannotSeeHiddenState := by
  intro a s t h
  cases a with
  | read o w =>
    by_cases inside : o < Config.windowBytes
    · simp only [hostStep, if_pos inside]
      exact next_alike (.ite (fun _ => h.readWord32 o) fun _ => h.refuseRead)
    · simp only [hostStep, if_neg inside]
      exact ⟨nofun, fun _ => id⟩
  | write o w v =>
    by_cases inside : o < Config.windowBytes
    · simp only [hostStep, if_pos inside]
      exact next_alike (.ite (fun _ => h.writeWord32 o v) fun _ => h.setAccv)
    · simp only [hostStep, if_neg inside]
      exact ⟨nofun, fun _ => id⟩

end Sys2Proof.Machine
end

section
/-! SUPPORT. Windows and refusals of the host bus (R61, R63, R65 to R67, R70): what an access to the BREG window, to a
protected window or to a reserved offset does, and that a read is idempotent, with the obligations O10, O11, O13 and O16.
-/
namespace Sys2Proof.Machine

/-! ## Where an offset lies (R61) -/

theorem inBreg_iff {o : Nat} : inBreg o = true ↔ 0x200 ≤ o ∧ o < 0x400 := by
  simp only [inBreg, Bool.and_eq_true, decide_eq_true_eq]

theorem inMsg_iff {o : Nat} : inMsg o = true ↔ 0x1000 ≤ o ∧ o < 0x2000 := by
  simp only [inMsg, Bool.and_eq_true, decide_eq_true_eq]

/-- The registers end at offset 0x1B (R61). -/
theorem offset_ne_register {o k : Nat} (above : 0x1C ≤ o) (hk : k < 0x1C) : o ≠ k := by omega

/-! ## Refused accesses (R65 to R67) -/

/-- A reserved offset belongs to no register and to no window (R67). -/
def reservedOffset (o : Nat) : Prop := (0x1C ≤ o ∧ o ≤ 0x1FF) ∨ (0x400 ≤ o ∧ o ≤ 0xFFF)

namespace reservedOffset

variable {o : Nat} (h : reservedOffset o)
include h

theorem above_registers : 0x1C ≤ o := by unfold reservedOffset at h; omega

theorem inBreg_eq : inBreg o = false := by
  rw [Bool.eq_false_iff, ne_eq, inBreg_iff]; unfold reservedOffset at h; omega

theorem inMsg_eq : inMsg o = false := by
  rw [Bool.eq_false_iff, ne_eq, inMsg_iff]; unfold reservedOffset at h; omega

theorem readWord32_eq (s : State) : readWord32 o s = refuseRead s := by
  simp [readWord32, offset_ne_register h.above_registers, h.inBreg_eq, h.inMsg_eq]

theorem writeWord32_eq (s : State) (v : Word) : writeWord32 o s v = setAccv s := by
  simp [writeWord32, offset_ne_register h.above_registers, h.inBreg_eq, h.inMsg_eq]

end reservedOffset

theorem accessOk_iff {o : Nat} {w : AccessWidth} : accessOk o w = true ↔ w = .w32 ∧ o % 4 = 0 := by
  simp only [accessOk, Bool.and_eq_true, decide_eq_true_eq]

theorem hostStep_read_not_ok {o : Nat} {w : AccessWidth} (s : State) (inside : o < Config.windowBytes)
    (bad : ¬ accessOk o w = true) : hostStep (.read o w) s = .next (refuseRead s) := by
  simp only [hostStep, if_pos inside, if_neg bad]

theorem hostStep_write_not_ok {o : Nat} {w : AccessWidth} (s : State) (v : Word) (inside : o < Config.windowBytes)
    (bad : ¬ accessOk o w = true) : hostStep (.write o w v) s = .next (setAccv s) := by
  simp only [hostStep, if_pos inside, if_neg bad]

/-- Settles O11: an access of the wrong width or alignment is refused by the bus, a reserved one by the register map. -/
theorem refusedAccesses : Obligations.RefusedAccesses := by
  intro s o w v inside cause
  by_cases ok : accessOk o w = true
  · obtain ⟨rfl, aligned⟩ := accessOk_iff.mp ok
    have reserved : reservedOffset o :=
      (cause.resolve_left fun width => width rfl).resolve_left fun misaligned => misaligned aligned
    rw [hostStep_read_word s inside aligned, hostStep_write_word s v inside aligned, reserved.readWord32_eq,
      reserved.writeWord32_eq]
    exact ⟨rfl, rfl⟩
  · exact ⟨hostStep_read_not_ok s inside ok, hostStep_write_not_ok s v inside ok⟩

/-! ## The operand storage while BUSY (R66) -/

/-- The two windows onto the operand storage (R61). -/
def inWindow (o : Nat) : Prop := (0x200 ≤ o ∧ o < 0x400) ∨ (0x1000 ≤ o ∧ o < 0x2000)

namespace inWindow

variable {o : Nat} (h : inWindow o)
include h

theorem above_registers : 0x1C ≤ o := by unfold inWindow at h; omega

theorem inside : o < Config.windowBytes := by unfold inWindow at h; show o < 0x2000; omega

theorem breg_or_msg : inBreg o = true ∨ inMsg o = true := by rwa [inBreg_iff, inMsg_iff]

theorem readWord32_busy {s : State} (busy : s.busy = true) : readWord32 o s = refuseRead s := by
  obtain breg | msg := h.breg_or_msg
  · simp [readWord32, offset_ne_register h.above_registers, breg, busy]
  · simp [readWord32, offset_ne_register h.above_registers, msg, busy]

theorem writeWord32_busy {s : State} (busy : s.busy = true) (v : Word) : writeWord32 o s v = setAccv s := by
  obtain breg | msg := h.breg_or_msg
  · simp [writeWord32, offset_ne_register h.above_registers, breg, busy]
  · simp [writeWord32, offset_ne_register h.above_registers, msg, busy]

end inWindow

/-- `CMD`, `ARG` and `MSGLEN` (R61) are not written while BUSY. -/
theorem writeWord32_register_busy {s : State} (busy : s.busy = true) {o : Nat} (h : o = 0x8 ∨ o = 0x18 ∨ o = 0x4)
    (v : Word) : writeWord32 o s v = setAccv s := by
  obtain rfl | rfl | rfl := h
  · simp [writeWord32, busy]
  · simp [writeWord32, busy]
  · simp [writeWord32, writeCmd, busy]

/-- Settles O10: the windows by their refusal while BUSY, the registers one by one. -/
theorem busyProtectsOperandStorage : Obligations.BusyProtectsOperandStorage := by
  refine fun s busy => ⟨fun o aligned window => ?readWindow, fun o v aligned place => ?write,
    fun o x place => ?readRegister, fun v => ⟨rfl, rfl⟩⟩
  case readWindow =>
    have window : inWindow o := window
    rw [hostStep_read_word s window.inside aligned, window.readWord32_busy busy]
    rfl
  case write =>
    have protectedPlace : inWindow o ∨ (o = 0x8 ∨ o = 0x18 ∨ o = 0x4) := or_assoc.mpr place
    have refused : writeWord32 o s v = setAccv s :=
      protectedPlace.elim (·.writeWord32_busy busy v) (writeWord32_register_busy busy · v)
    have inside : o < Config.windowBytes := protectedPlace.elim (·.inside) fun _ => by show o < 0x2000; omega
    rw [hostStep_write_word s v inside aligned, refused]
    rfl
  case readRegister =>
    simp only [List.mem_cons, Prod.mk.injEq, List.not_mem_nil, or_false] at place
    obtain ⟨rfl, rfl⟩ | ⟨rfl, rfl⟩ | ⟨rfl, rfl⟩ | ⟨rfl, rfl⟩ | ⟨rfl, rfl⟩ | ⟨rfl, rfl⟩ := place <;> rfl

/-! ## The BREG window (R63) -/

/-- The offset of word `m` of register `k` (R63). -/
def bregOffset (k m : Nat) : Nat := 0x200 + 32 * k + 4 * m

theorem bregIndex_bregOffset (k : Nat) {m : Nat} (hm : m < 8) : bregIndex (bregOffset k m) = BitVec.ofNat 4 k := by
  unfold bregIndex bregOffset
  congr 1
  omega

theorem bregWord_bregOffset (k : Nat) {m : Nat} (hm : m < 8) : bregWord (bregOffset k m) = m := by
  unfold bregWord bregOffset
  omega

theorem bregOffset_aligned (k m : Nat) : bregOffset k m % 4 = 0 := by
  unfold bregOffset
  omega

section

variable {k m : Nat} (hk : k < 16) (hm : m < 8)
include hk hm

theorem inBreg_bregOffset : inBreg (bregOffset k m) = true := by
  rw [inBreg_iff]
  unfold bregOffset
  omega

theorem inWindow_bregOffset : inWindow (bregOffset k m) := .inl (inBreg_iff.mp (inBreg_bregOffset hk hm))

/-- A read in the BREG window of an idle engine (R63). -/
theorem hostStep_read_breg {s : State} (idle : s.busy = false) :
    hostStep (.read (bregOffset k m) .w32) s = .next (respond s (wordAt (readB s (BitVec.ofNat 4 k)) m)) := by
  have window := inWindow_bregOffset hk hm
  rw [hostStep_read_word s window.inside (bregOffset_aligned k m)]
  simp [readWord32, offset_ne_register window.above_registers, inBreg_bregOffset hk hm, idle, bregIndex_bregOffset k hm,
    bregWord_bregOffset k hm]

/-- A write in the BREG window of an idle engine (R63). -/
theorem hostStep_write_breg {s : State} (idle : s.busy = false) (v : Word) :
    hostStep (.write (bregOffset k m) .w32 v) s =
      .next (writeB s (BitVec.ofNat 4 k) (setWord (readB s (BitVec.ofNat 4 k)) m v)) := by
  have window := inWindow_bregOffset hk hm
  rw [hostStep_write_word s v window.inside (bregOffset_aligned k m)]
  simp [writeWord32, offset_ne_register window.above_registers, inBreg_bregOffset hk hm, idle, writeBreg,
    bregIndex_bregOffset k hm, bregWord_bregOffset k hm]

end

/-- Word `m` of a register is bits `[32m+31 : 32m]` of `int_le` (R63). -/
theorem wordAt_toNat (x : Bytes32) (m : Nat) : (wordAt x m).toNat = x.toNat / 2 ^ (32 * m) % 2 ^ 32 := by
  rw [wordAt, BitVec.extractLsb'_toNat, Nat.shiftRight_eq_div_pow]

/-- The first eight words of a view are those of its low half (R22). -/
theorem extractLsb'_readW_low (s : State) (r : Reg) {m : Nat} (hm : m < 8) :
    (readW s r).extractLsb' (32 * m) 32 = wordAt (readB s (wLow r)) m := by
  rw [readW, wordAt, BitVec.extractLsb'_append_eq_of_add_le (by omega)]

/-- The last eight are those of its high half (R22). -/
theorem extractLsb'_readW_high (s : State) (r : Reg) {m : Nat} (hm : 8 ≤ m) :
    (readW s r).extractLsb' (32 * m) 32 = wordAt (readB s (wHigh r)) (m - 8) := by
  rw [readW, wordAt, BitVec.extractLsb'_append_eq_of_le (by omega), Nat.mul_sub]

/-- `W[j]`'s low half is `B[2j]` (R22). -/
theorem ofNat_double {j : Nat} (hj : j < 8) : BitVec.ofNat 4 (2 * j) = wLow (BitVec.ofNat 4 j) := by
  revert j
  decide

/-- Its high half is `B[2j+1]` (R22). -/
theorem ofNat_double_add_one {j : Nat} (hj : j < 8) : BitVec.ofNat 4 (2 * j + 1) = wHigh (BitVec.ofNat 4 j) := by
  revert j
  decide

/-- Byte `i` of a register with word `m` replaced (R63). -/
theorem byteAt_setWord (x : Bytes32) (m : Nat) (v : Word) {i : Nat} (hi : i < 32) :
    byteAt (setWord x m v) i = if i / 4 = m then byteAt v (i % 4) else byteAt x i := by
  apply BitVec.eq_of_getLsbD_eq
  intro j hj
  rw [byteAt_getLsbD _ _ _ hj, setWord_getLsbD _ _ _ _ (by omega)]
  by_cases word : i / 4 = m
  · rw [if_pos (by omega), if_pos word, byteAt_getLsbD _ _ _ hj]
    congr 1
    omega
  · rw [if_neg (by omega), if_neg word, byteAt_getLsbD _ _ _ hj]

/-- The view's word `m` is read in the BREG window at `0x0200 + 64·j + 4·m` (R22, R63). -/
theorem hostStep_read_view {s : State} (idle : s.busy = false) {j m : Nat} (hj : j < 8) (hm : m < 16) :
    hostStep (.read (0x200 + 64 * j + 4 * m) .w32) s =
      .next (respond s ((readW s (BitVec.ofNat 4 j)).extractLsb' (32 * m) 32)) := by
  by_cases low : m < 8
  · have offset : 0x200 + 64 * j + 4 * m = bregOffset (2 * j) m := by unfold bregOffset; omega
    rw [offset, hostStep_read_breg (by omega) low idle, ofNat_double hj, extractLsb'_readW_low s _ low]
  · have offset : 0x200 + 64 * j + 4 * m = bregOffset (2 * j + 1) (m - 8) := by unfold bregOffset; omega
    rw [offset, hostStep_read_breg (by omega) (by omega) idle, ofNat_double_add_one hj,
      extractLsb'_readW_high s _ (by omega)]

/-- Settles O13: the word read in a register and in a view, and the word write of a register. -/
theorem bregWindow : Obligations.BregWindow := by
  refine fun s v idle => ⟨fun k m hk hm => ⟨_, hostStep_read_breg hk hm idle, wordAt_toNat _ m⟩,
    fun j m hj hm => ⟨_, hostStep_read_view idle hj hm, ?view⟩,
    fun k m hk hm => ⟨_, hostStep_write_breg hk hm idle v, rfl, fun i hi => ?bytes, fun r other => ?frame⟩⟩
  case view => rw [BitVec.extractLsb'_toNat, Nat.shiftRight_eq_div_pow]
  case bytes => rw [readB_writeB_same, byteAt_setWord _ _ _ hi]
  case frame => exact readB_writeB_other s _ r _ other

/-! ## Reads (R70) -/

/-- What `read` may do to `s`: answer or be refused, and then do to the state after it what it did to `s`. -/
def RepeatableRead (read : State → State) (s : State) : Prop :=
  (∃ v, read s = respond s v ∧ read (respond s v) = respond s v) ∨
    read s = refuseRead s ∧ read (refuseRead s) = refuseRead s

namespace RepeatableRead

variable {s : State} {f g : State → State}

/-- An answer that does not depend on the answer before it. -/
theorem answer {value : State → Word} (kept : ∀ v, value (respond s v) = value s) :
    RepeatableRead (fun s => respond s (value s)) s :=
  .inl ⟨value s, rfl, congrArg (respond (respond s (value s))) (kept _)⟩

theorem refusal : RepeatableRead refuseRead s := .inr ⟨rfl, rfl⟩

/-- A branch on the offset. -/
theorem ite {c : Prop} [Decidable c] (yes : RepeatableRead f s) (no : RepeatableRead g s) :
    RepeatableRead (fun s => if c then f s else g s) s := by
  by_cases hc : c
  · simpa only [hc, if_true] using yes
  · simpa only [hc, if_false] using no

/-- A branch on BUSY, which no read changes. -/
theorem ite_busy (yes : RepeatableRead f s) (no : RepeatableRead g s) :
    RepeatableRead (fun s => if s.busy then f s else g s) s := by
  have respond_busy : ∀ v, (respond s v).busy = s.busy := fun _ => rfl
  have refuseRead_busy : (refuseRead s).busy = s.busy := rfl
  cases busy : s.busy with
  | true =>
    simp only [RepeatableRead, respond_busy, refuseRead_busy, busy, if_true]
    exact yes
  | false =>
    simp only [RepeatableRead, respond_busy, refuseRead_busy, busy, Bool.false_eq_true, if_false]
    exact no

/-- The reads in the order of the register map (R61). -/
theorem readWord32 (o : Nat) (s : State) : RepeatableRead (Machine.readWord32 o) s :=
  .ite (.answer fun _ => rfl) <| .ite (.answer fun _ => rfl) <| .ite (.answer fun _ => rfl) <|
    .ite (.answer fun _ => rfl) <| .ite (.answer fun _ => rfl) <| .ite (.answer fun _ => rfl) <|
    .ite (.answer fun _ => rfl) <| .ite (.ite_busy .refusal (.answer fun _ => rfl)) <|
    .ite (.ite_busy .refusal (.answer fun _ => rfl)) .refusal

end RepeatableRead

/-- What the bus does on a read inside the window (R65). -/
def busRead (o : Nat) (w : AccessWidth) (s : State) : State := if accessOk o w then readWord32 o s else refuseRead s

/-- Outside the window a read answers no state (R67). -/
theorem hostStep_read_next {o : Nat} {w : AccessWidth} {s t : State} (h : hostStep (.read o w) s = .next t) :
    o < Config.windowBytes ∧ t = busRead o w s := by
  by_cases inside : o < Config.windowBytes
  · rw [hostStep, if_pos inside] at h
    exact ⟨inside, (Host.Outcome.next.inj h).symm⟩
  · rw [hostStep_read_outside (Nat.le_of_not_lt inside)] at h
    cases h

theorem hostStep_read_inside {o : Nat} (inside : o < Config.windowBytes) (w : AccessWidth) (s : State) :
    hostStep (.read o w) s = .next (busRead o w s) := by
  rw [hostStep, if_pos inside, busRead]

/-- Settles O16: a read is repeatable, and of its two outcomes only the refusal touches ACCV. -/
theorem readsHaveNoSideEffect : Obligations.ReadsHaveNoSideEffect := by
  intro s t o w h
  obtain ⟨inside, rfl⟩ := hostStep_read_next h
  rw [hostStep_read_inside inside]
  have repeatable : RepeatableRead (busRead o w) s := .ite (.readWord32 o s) .refusal
  obtain ⟨v, first, again⟩ | ⟨first, again⟩ := repeatable
  · rw [first, again]
    exact ⟨rfl, id, fun changed => absurd rfl changed, rfl⟩
  · rw [first, again]
    exact ⟨rfl, fun _ => rfl, fun _ => rfl, rfl⟩

end Sys2Proof.Machine
end

section
/-! SUPPORT. The decoder and the encoder of command words against the table of kinds (R90 to R97, R102): every row's
mask and match test the kinds of its fields, so a word decodes exactly when it is legal, and it is then the encoding
of its command; with the obligations O1 to O5 that rest on it.
-/
namespace Sys2Proof.Machine

/-! ## Fields and their kinds (R91, R92) -/

namespace FieldKind

/-- The bits of a field that are 0 in a legal word. -/
def mask : FieldKind → Reg
  | .unused => 0xf#4
  | .f | .b => 0x0#4
  | .g | .w => 0x8#4

theorem and_mask_eq_zero_iff (k : FieldKind) (r : Reg) : r &&& k.mask = 0#4 ↔ fieldLegal k r.toNat := by
  cases k
  case unused => exact mask_unused_field.trans BitVec.toNat_eq
  case f | b => exact iff_of_true mask_free_field trivial
  case g | w => exact mask_g_field

/-- What the encoder puts into a field for the register `r`: 0 where the field is unused (R92 (c), R102). -/
def content : FieldKind → Reg → Reg
  | .unused, _ => 0#4
  | _, r => r

theorem content_of_legal {k : FieldKind} {r : Reg} (h : fieldLegal k r.toNat) : k.content r = r := by
  cases k
  case unused => exact BitVec.toNat_eq.mpr (Eq.symm h)
  all_goals rfl

end FieldKind

/-! ## Rows of the table (R96) -/

/-- The row of R96 with the opcode. -/
def rowAt (op : BitVec 8) : Option CommandRow :=
  (commandRowsLow ++ commandRowsHigh).find? fun row => row.opcode == op.toNat

/-- No two rows have one opcode. -/
theorem rowAt_of_mem {row : CommandRow} (mem : row ∈ commandRowsLow ++ commandRowsHigh) :
    rowAt (BitVec.ofNat 8 row.opcode) = some row := by
  revert row
  decide

theorem mem_of_rowAt {op : BitVec 8} {row : CommandRow} (h : rowAt op = some row) :
    row ∈ commandRowsLow ++ commandRowsHigh ∧ op.toNat = row.opcode :=
  ⟨List.mem_of_find?_eq_some h, (by simpa using List.find?_some h : _ = _).symm⟩

namespace CommandRow

/-- The bits of a word that the row fixes: the opcode, bits 31:24, and each field's mask (R92, R95). -/
def mask (row : CommandRow) : Word :=
  0xff#8 ++ (row.rc.mask ++ (row.rb.mask ++ (row.ra.mask ++ (row.rd.mask ++ 0xff#8))))

/-- Bits 31:24 of `w` are 0 and its fields are legal by the row's kinds (R92 (b) to (d)). -/
def Admits (row : CommandRow) (w : Word) : Prop :=
  w.extractLsb' 24 8 = 0#8 ∧ fieldLegal row.rd (w.extractLsb' 8 4).toNat ∧
    fieldLegal row.ra (w.extractLsb' 12 4).toNat ∧ fieldLegal row.rb (w.extractLsb' 16 4).toNat ∧
      fieldLegal row.rc (w.extractLsb' 20 4).toNat

/-- The command word with the opcode and with the row's used fields taken from `w` (R102). -/
def wordFrom (row : CommandRow) (op : BitVec 8) (w : Word) : Word :=
  commandWord op (row.rd.content (w.extractLsb' 8 4)) (row.ra.content (w.extractLsb' 12 4))
    (row.rb.content (w.extractLsb' 16 4)) (row.rc.content (w.extractLsb' 20 4))

theorem Admits.wordFrom_eq {row : CommandRow} {w : Word} (h : row.Admits w) :
    row.wordFrom (w.extractLsb' 0 8) w = w := by
  obtain ⟨top, rd, ra, rb, rc⟩ := h
  simp only [wordFrom, FieldKind.content_of_legal rd, FieldKind.content_of_legal ra, FieldKind.content_of_legal rb,
    FieldKind.content_of_legal rc]
  exact commandWord_of_fields w top

/-- The mask test of R95 is the legality of R92: the decoder's masks are the table's kinds. -/
theorem and_mask_eq_iff_admits (row : CommandRow) (w : Word) :
    w &&& row.mask = commandWord (w.extractLsb' 0 8) 0#4 0#4 0#4 0#4 ↔ row.Admits w := by
  have maskTop : row.mask.extractLsb' 24 8 = BitVec.allOnes 8 := BitVec.extractLsb'_append_eq_left
  have testOfTop (top : w.extractLsb' 24 8 = 0#8) :
      w &&& row.mask = commandWord (w.extractLsb' 0 8) 0#4 0#4 0#4 0#4 ↔
        fieldLegal row.rd (w.extractLsb' 8 4).toNat ∧ fieldLegal row.ra (w.extractLsb' 12 4).toNat ∧
          fieldLegal row.rb (w.extractLsb' 16 4).toNat ∧ fieldLegal row.rc (w.extractLsb' 20 4).toNat := by
    conv_lhs => rw [← commandWord_of_fields w top]
    rw [mask, commandWord_and, commandWord_inj]
    simp only [FieldKind.and_mask_eq_zero_iff, commandWord_opcode]
    exact and_iff_right BitVec.and_allOnes
  constructor
  · intro h
    have top : w.extractLsb' 24 8 = 0#8 := by
      rw [← BitVec.and_allOnes (x := w.extractLsb' 24 8), ← maskTop, ← BitVec.extractLsb'_and, h, commandWord_zero]
    exact ⟨top, (testOfTop top).mp h⟩
  · exact fun h => (testOfTop h.1).mpr h.2

end CommandRow

/-- A part cut out of a word, as the quotient and remainder in which the table's statement has it. -/
theorem toNat_extractLsb' (w : Word) (start len : Nat) :
    (w.extractLsb' start len).toNat = w.toNat / 2 ^ start % 2 ^ len := by
  rw [BitVec.extractLsb'_toNat, Nat.shiftRight_eq_div_pow]

/-- Only the row with the word's opcode can make the word legal (R92, R95). -/
theorem wordLegal_iff_admits {w : Word} {row : CommandRow} (hrow : rowAt (w.extractLsb' 0 8) = some row) :
    wordLegal w ↔ row.Admits w := by
  have opcode : (w.extractLsb' 0 8).toNat = w.toNat % 256 := by simp
  have top : w.extractLsb' 24 8 = 0#8 ↔ w.toNat / 2 ^ 24 = 0 := by
    rw [BitVec.toNat_eq, toNat_extractLsb', Nat.mod_eq_of_lt (by have := w.isLt; omega)]
    rfl
  simp only [wordLegal, CommandRow.Admits, top, toNat_extractLsb']
  constructor
  · rintro ⟨other, mem, hother, fields⟩
    have unique := rowAt_of_mem mem
    rw [← hother, ← opcode, BitVec.ofNat_toNat, BitVec.setWidth_eq, hrow] at unique
    obtain rfl := Option.some.inj unique
    exact fields
  · obtain ⟨mem, hopcode⟩ := mem_of_rowAt hrow
    exact fun fields => ⟨row, mem, opcode.symm.trans hopcode, fields⟩

/-- The opcode of a legal word is one of the 49 (R92 (a)). -/
theorem opcode_mem_of_wordLegal {w : Word} (h : wordLegal w) :
    w.extractLsb' 0 8 ∈ (commandRowsLow ++ commandRowsHigh).map fun row => BitVec.ofNat 8 row.opcode := by
  obtain ⟨row, mem, opcode, -⟩ := h
  refine List.mem_map.mpr ⟨row, mem, ?_⟩
  rw [← opcode, BitVec.toNat_eq]
  simp

/-! ## The decoder (R95) -/

/-- What the decoder owes to a word: a command, of which the word is the encoding, or a refusal. -/
structure Decodes (w : Word) (answer : Except DecodeReject Instr) : Prop where
  answers (legal : wordLegal w) : ∃ i, answer = .ok i ∧ encode i = w
  refuses (illegal : ¬ wordLegal w) : ∃ e, answer = .error e

/-- One row of the decoder, whose mask, match and command are those of its row of the table. -/
theorem decodes_accept {w mask pattern : Word} {op : BitVec 8} {row : CommandRow} {i : Instr}
    (hop : w.extractLsb' 0 8 = op) (hrow : rowAt op = some row) (hmask : mask = row.mask)
    (hpattern : pattern = commandWord op 0#4 0#4 0#4 0#4) (hencode : encode i = row.wordFrom op w) :
    Decodes w (accept w mask pattern i) := by
  subst hop hmask hpattern
  have test : w &&& row.mask = commandWord (w.extractLsb' 0 8) 0#4 0#4 0#4 0#4 ↔ wordLegal w :=
    (row.and_mask_eq_iff_admits w).trans (wordLegal_iff_admits hrow).symm
  constructor
  · intro legal
    have word := hencode.trans ((wordLegal_iff_admits hrow).mp legal).wordFrom_eq
    exact ⟨i, (accept_ok _ _ _ _ _).mpr ⟨test.mpr legal, rfl⟩, word⟩
  · intro illegal
    rw [accept, if_neg (mt test.mp illegal)]
    split <;> exact ⟨_, rfl⟩

/-- Each of the 49 arms of `decode` is the row of its opcode, and no other opcode has a row. -/
theorem decodes_decode (w : Word) : Decodes w (decode w) := by
  unfold decode
  split
  case h_50 =>
    refine ⟨fun legal => ?_, fun _ => ⟨_, rfl⟩⟩
    have mem := opcode_mem_of_wordLegal legal
    simp_all [commandRowsLow, commandRowsHigh]
  all_goals exact decodes_accept ‹_› rfl rfl rfl (by simp only [encode, CommandRow.wordFrom, FieldKind.content])

theorem wordLegal_of_decode {w : Word} {i : Instr} (h : decode w = .ok i) : wordLegal w := by
  by_contra illegal
  obtain ⟨e, refused⟩ := (decodes_decode w).refuses illegal
  cases h.symm.trans refused

/-! ## The encoder (R90, R102) -/

theorem wordLegal_commandWord {op : BitVec 8} {rd ra rb rc : Reg} {row : CommandRow} (hrow : rowAt op = some row) :
    wordLegal (commandWord op rd ra rb rc) ↔
      fieldLegal row.rd rd.toNat ∧ fieldLegal row.ra ra.toNat ∧ fieldLegal row.rb rb.toNat ∧
        fieldLegal row.rc rc.toNat := by
  rw [wordLegal_iff_admits (row := row) (by rw [commandWord_opcode, hrow])]
  simp only [CommandRow.Admits, commandWord_zero, commandWord_rd, commandWord_ra, commandWord_rb, commandWord_rc,
    true_and]

/-- A command is well formed exactly when its word is legal: the kinds of `Instr.wf` are those of the table. -/
theorem wordLegal_encode_iff (i : Instr) : wordLegal (encode i) ↔ i.wf = true := by
  cases i
  all_goals
    refine (wordLegal_commandWord rfl).trans ?_
    simp [Instr.wf, gFieldOk, wFieldOk, fieldLegal, and_assoc]

/-- The only command that the decoder can answer for a command's word is that command. -/
theorem eq_of_decode_encode {i j : Instr} (h : decode (encode i) = .ok j) : i = j := by
  cases i
  all_goals
    simp only [encode, decode, commandWord_opcode, commandWord_rd, commandWord_ra, commandWord_rb, commandWord_rc,
      accept_ok] at h
    exact h.2

/-- Settles O1: the word of a well-formed command is legal, so it decodes, and to nothing else. -/
theorem decodeOfEncodedCommand : Obligations.DecodeOfEncodedCommand := by
  intro i wf
  obtain ⟨j, answer, -⟩ := (decodes_decode (encode i)).answers ((wordLegal_encode_iff i).mpr wf)
  rw [answer, eq_of_decode_encode answer]

/-- Settles O2: a decoded word is legal, so it is its command's encoding, and that command is well formed. -/
theorem encodeOfDecodedWord : Obligations.EncodeOfDecodedWord := by
  intro w i h
  have legal := wordLegal_of_decode h
  obtain ⟨j, answer, word⟩ := (decodes_decode w).answers legal
  obtain rfl := Except.ok.inj (h.symm.trans answer)
  exact ⟨word, (wordLegal_encode_iff i).mp (word ▸ legal)⟩

/-! ## The decoded word's completion (R95 to R97, R296) -/

/-- The engine's turn with a word in `PEND` that is no command (R97). -/
theorem step_of_not_wordLegal {s : State} {rest : List Event} {w : Word} (turn : engineTurn s rest)
    (pending : s.pend = some w) (illegal : ¬ wordLegal w) :
    step s = .next (takeError { s with agenda := rest } .illegal) := by
  obtain ⟨e, refused⟩ := (decodes_decode w).refuses illegal
  rw [step_of_engineTurn turn]
  simp only [engineStep, fetch, pending, refused]

/-- Settles O3: what the decoder owes to a word, and the engine's turn on a refused one. -/
theorem legalWordsAreTheCommands : Obligations.LegalWordsAreTheCommands := by
  intro w
  refine ⟨⟨fun ⟨_, answer⟩ => wordLegal_of_decode answer, fun legal => ?_⟩,
    fun illegal _ _ turn pending => step_of_not_wordLegal turn pending illegal⟩
  obtain ⟨i, answer, -⟩ := (decodes_decode w).answers legal
  exact ⟨i, answer⟩

/-- Settles O4, by evaluation of the decoder on the eleven words. -/
theorem specWordsDecode : Obligations.SpecWordsDecode := by
  unfold Obligations.SpecWordsDecode
  decide

/-- Settles O5: the engine has the turn, and what it finds in `PEND` is the decoded command. -/
theorem stepRunsDecodedCommand : Obligations.StepRunsDecodedCommand := by
  intro s rest w i turn pending answer
  rw [step_of_engineTurn turn]
  simp only [engineStep, fetch, pending, answer]

end Sys2Proof.Machine
end

section
/-! SUPPORT. The order of the checks (R99, R254, R274, R288): each check of the model's commands is the one that
`firstError` names, taken in the same order, and an effect behind its checks leaves ERR and `ERRCODE` alone; with the
obligation O21 that rests on it.
-/
namespace Sys2Proof.Machine

/-! ## The checks one by one (R99 (2) to (4)) -/

/-- The error a check answers. -/
def errorOf {α : Type} : Except ErrCode α → Option ErrCode
  | .error e => some e
  | .ok _ => none

theorem errorOf_needF (s : State) (r : Reg) : errorOf (needF s r) = sourceError s (.f r) := by
  simp only [needF, sourceError]
  cases readF s r <;> rfl

theorem errorOf_needP2 (s : State) (r : Reg) : errorOf (needP2 s r) = sourceError s (.g r [.p2]) := by
  simp only [needP2, sourceError]
  rcases readG s r with _ | (_ | _ | _ | _ | _) <;> rfl

theorem errorOf_needP3 (s : State) (r : Reg) : errorOf (needP3 s r) = sourceError s (.g r [.p3]) := by
  simp only [needP3, sourceError]
  rcases readG s r with _ | (_ | _ | _ | _ | _) <;> rfl

theorem errorOf_needP1P1 (s : State) (r : Reg) : errorOf (needP1P1 s r) = sourceError s (.g r [.p1p1]) := by
  simp only [needP1P1, sourceError]
  rcases readG s r with _ | (_ | _ | _ | _ | _) <;> rfl

theorem errorOf_needCached (s : State) (r : Reg) : errorOf (needCached s r) = sourceError s (.g r [.cached]) := by
  simp only [needCached, sourceError]
  rcases readG s r with _ | (_ | _ | _ | _ | _) <;> rfl

theorem errorOf_needPrecomp (s : State) (r : Reg) : errorOf (needPrecomp s r) = sourceError s (.g r [.precomp]) := by
  simp only [needPrecomp, sourceError]
  rcases readG s r with _ | (_ | _ | _ | _ | _) <;> rfl

theorem errorOf_needXYZ (s : State) (r : Reg) : errorOf (needXYZ s r) = sourceError s (.g r [.p2, .p3]) := by
  simp only [needXYZ, sourceError]
  rcases readG s r with _ | (_ | _ | _ | _ | _) <;> rfl

theorem errorOf_needSelectArg (s : State) (rd : Reg) : errorOf (needSelectArg s) = operandError s (.geSelect rd) := by
  unfold needSelectArg operandError
  rw [selectArgOk_eq]
  split <;> rfl

theorem errorOf_needBiIndex (s : State) (rd : Reg) : errorOf (needBiIndex s) = operandError s (.geLoadBi rd) := by
  unfold needBiIndex operandError
  split <;> rfl

theorem destOverlap_iff {rd ra : Reg} :
    destOverlap rd ra = true ↔ ra.toNat = 2 * rd.toNat ∨ ra.toNat = 2 * rd.toNat + 1 := by
  simp [destOverlap]

/-- The overlap check of the three key commands; it does not look at the state. -/
theorem errorOf_needDisjoint (s : State) (rd ra : Reg) :
    errorOf (needDisjoint rd ra) = operandError s (.edGenerate rd ra) := by
  simp only [needDisjoint, operandError, destOverlap_iff]
  split <;> rfl

theorem errorOf_needMessage (s : State) (ra rb : Reg) : errorOf (needMessage s) = messageError s (.edVerify ra rb) := by
  unfold needMessage messageError
  split <;> rfl

/-! ## Effects behind their checks -/

/-- The effect of a command on `s` whose first failing check is `e`: that error, or a state with ERR and `ERRCODE`
as they were. -/
inductive Decides (s : State) : Except ErrCode State → Option ErrCode → Prop
  | error (e : ErrCode) : Decides s (.error e) (some e)
  | ok {t : State} (err : t.err = s.err) (errcode : t.errcode = s.errcode) : Decides s (.ok t) none

namespace Decides

variable {s : State} {α : Type} {check : Except ErrCode α} {effect : α → Except ErrCode State}

theorem bind {e e' : Option ErrCode} (first : errorOf check = e) (h : ∀ a, Decides s (effect a) e') :
    Decides s (check >>= effect) (e.or e') := by
  subst first
  cases check with
  | error e => exact .error e
  | ok a => exact h a

/-- The last check of a command. -/
theorem last {e : Option ErrCode} (first : errorOf check = e) (h : ∀ a, Decides s (effect a) none) :
    Decides s (check >>= effect) e := by
  rw [← Option.or_none (o := e)]
  exact bind first h

/-- The check of a source in front of the sources after it. -/
theorem source {src : Source} {later : List Source} (first : errorOf check = sourceError s src)
    (h : ∀ a, Decides s (effect a) (later.findSome? (sourceError s))) :
    Decides s (check >>= effect) ((src :: later).findSome? (sourceError s)) := by
  have order : (src :: later).findSome? (sourceError s) =
      (sourceError s src).or (later.findSome? (sourceError s)) := by
    rw [List.findSome?_cons]
    cases sourceError s src <;> rfl
  rw [order]
  exact bind first h

theorem putDecoded (rd : Reg) (p : Option P3) : Decides s (.ok (putDecoded s rd p)) none := by
  cases p with
  | none => exact .ok rfl rfl
  | some v => exact .ok rfl rfl

end Decides

/-! ## The order of the checks (R99) -/

theorem firstError_of_wf {i : Instr} (wf : i.wf = true) (s : State) :
    firstError s i = ((sourcesOf i).findSome? (sourceError s)).or
      ((operandError s i).or ((messageError s i).or (executionError s i))) := by
  simp only [firstError, wf, Option.orElse_eq_or]
  rfl

/-- The outcome is a completion of `s` that its first failing check decides. -/
def DecidedCompletion (i : Instr) (s : State) (outcome : Outcome) : Prop :=
  ∃ effect, outcome = .next (complete s effect) ∧ Decides s effect (firstError s i)

/-- Legality of the fields is checked in front of the command's own checks (R99 (1)). -/
theorem decidedCompletion_command {i : Instr} {s : State} {effect : Except ErrCode State}
    (h : i.wf = true → Decides s effect (firstError s i)) : DecidedCompletion i s (command i s effect) := by
  cases wf : i.wf with
  | false =>
    refine ⟨.error .illegal, command_illegal wf s effect, ?_⟩
    rw [firstError, if_pos wf]
    exact .error _
  | true => exact ⟨_, command_legal wf s effect, h wf⟩

/-- A command whose sources are all it checks. -/
theorem decidedCompletion_sources {i : Instr} {s : State} {effect : Except ErrCode State}
    (others : operandError s i = none ∧ messageError s i = none ∧ executionError s i = none)
    (h : Decides s effect ((sourcesOf i).findSome? (sourceError s))) : DecidedCompletion i s (command i s effect) := by
  obtain ⟨operand, message, execution⟩ := others
  refine decidedCompletion_command fun wf => ?_
  simpa only [firstError_of_wf wf, operand, message, execution, Option.or_none] using h

/-- A command without sources that makes one other check. -/
theorem decidedCompletion_check {i : Instr} {s : State} {α : Type} {check : Except ErrCode α}
    {effect : α → Except ErrCode State} (noSources : sourcesOf i = [])
    (first : errorOf check = (operandError s i).or ((messageError s i).or (executionError s i)))
    (h : ∀ a, Decides s (effect a) none) : DecidedCompletion i s (command i s (check >>= effect)) := by
  refine decidedCompletion_command fun wf => ?_
  rw [firstError_of_wf wf, noSources]
  exact .last first h

/-- Every command but `ED_GENERATE` completes as its first failing check decides. -/
theorem exec_decidedCompletion {i : Instr} (noDraw : ∀ rd ra, i ≠ .edGenerate rd ra) (s : State) :
    DecidedCompletion i s (exec i s) := by
  cases i
  case edGenerate rd ra => exact absurd rfl (noDraw rd ra)
  case nop | wipeAll | feWipe | geWipe | bWipe | feZero | feOne | feFromBytes | scReduce | scMuladd | scCheckLtL |
      geIdent | geScalarmultBase | x25519 | x25519Base =>
    exact decidedCompletion_sources ⟨rfl, rfl, rfl⟩ (.ok rfl rfl)
  case geDecode | geDecodeNeg => exact decidedCompletion_sources ⟨rfl, rfl, rfl⟩ (.putDecoded _ _)
  case feToBytes | feSq | feSq2 | feMulSmall | feInvert | fePow2523 | feIsNeg | feIsNz | feNeg =>
    exact decidedCompletion_sources ⟨rfl, rfl, rfl⟩ (.source (errorOf_needF _ _) fun _ => .ok rfl rfl)
  case feAdd | feSub | feMul | feCswap =>
    exact decidedCompletion_sources ⟨rfl, rfl, rfl⟩
      (.source (errorOf_needF _ _) fun _ => .source (errorOf_needF _ _) fun _ => .ok rfl rfl)
  case geP3ToCached | geP3ToP2 | geP3Dbl | geDoubleScalarmultVt =>
    exact decidedCompletion_sources ⟨rfl, rfl, rfl⟩ (.source (errorOf_needP3 _ _) fun _ => .ok rfl rfl)
  case geP1p1ToP2 | geP1p1ToP3 =>
    exact decidedCompletion_sources ⟨rfl, rfl, rfl⟩ (.source (errorOf_needP1P1 _ _) fun _ => .ok rfl rfl)
  case geP2Dbl => exact decidedCompletion_sources ⟨rfl, rfl, rfl⟩ (.source (errorOf_needP2 _ _) fun _ => .ok rfl rfl)
  case geEncode => exact decidedCompletion_sources ⟨rfl, rfl, rfl⟩ (.source (errorOf_needXYZ _ _) fun _ => .ok rfl rfl)
  case geAdd | geSub =>
    exact decidedCompletion_sources ⟨rfl, rfl, rfl⟩
      (.source (errorOf_needP3 _ _) fun _ => .source (errorOf_needCached _ _) fun _ => .ok rfl rfl)
  case geMadd | geMsub =>
    exact decidedCompletion_sources ⟨rfl, rfl, rfl⟩
      (.source (errorOf_needP3 _ _) fun _ => .source (errorOf_needPrecomp _ _) fun _ => .ok rfl rfl)
  case geSelect rd =>
    exact decidedCompletion_check rfl ((errorOf_needSelectArg s rd).trans Option.or_none.symm) fun _ => .ok rfl rfl
  case geLoadBi rd =>
    exact decidedCompletion_check rfl ((errorOf_needBiIndex s rd).trans Option.or_none.symm) fun _ => .ok rfl rfl
  case edFromSeed rd ra rb | edFrom rd ra rb =>
    exact decidedCompletion_check rfl ((errorOf_needDisjoint s rd ra).trans Option.or_none.symm) fun _ => .ok rfl rfl
  case edSign rd ra rb | edVerify ra rb =>
    exact decidedCompletion_check rfl ((errorOf_needMessage s ra rb).trans Option.or_none.symm) fun _ => .ok rfl rfl

/-! ## The draw comes last (R254, R274, R288) -/

theorem sourceError_ne_invalidKey (s : State) (src : Source) : sourceError s src ≠ some .invalidKey := by
  unfold sourceError
  split
  · split <;> nofun
  · split
    · nofun
    · split <;> nofun

theorem operandError_ne_invalidKey (s : State) (i : Instr) : operandError s i ≠ some .invalidKey := by
  unfold operandError
  split
  case h_1 | h_2 | h_3 | h_4 | h_5 => split <;> nofun
  all_goals nofun

theorem messageError_ne_invalidKey (s : State) (i : Instr) : messageError s i ≠ some .invalidKey := by
  unfold messageError
  split
  case h_1 | h_2 => split <;> nofun
  all_goals nofun

/-- Only a draw can fail with `ERR_INVALID_KEY`. -/
theorem firstError_ne_invalidKey {i : Instr} (noDraw : ∀ rd ra, i ≠ .edGenerate rd ra) (s : State) :
    firstError s i ≠ some .invalidKey := by
  have noExecution : executionError s i = none := by
    unfold executionError
    split
    · exact absurd rfl (noDraw _ _)
    · rfl
  cases wf : i.wf with
  | false =>
    rw [firstError, if_pos wf]
    nofun
  | true =>
    rw [firstError_of_wf wf, noExecution, Option.or_none]
    intro h
    obtain source | ⟨-, operand | ⟨-, message⟩⟩ := by simpa only [Option.or_eq_some_iff] using h
    · obtain ⟨src, -, source⟩ := List.exists_of_findSome?_eq_some source
      exact sourceError_ne_invalidKey s src source
    · exact operandError_ne_invalidKey s i operand
    · exact messageError_ne_invalidKey s i message

/-- A completion of the command is what its first failing check says; a failing draw is used up (log entry 3). -/
def FirstErrorDecides (i : Instr) (s : State) : Prop :=
  (∀ e, firstError s i = some e → e ≠ .invalidKey → exec i s = .next (takeError s e)) ∧
    (firstError s i = some .invalidKey → exec i s = .next (takeError (takeDraw s) .invalidKey)) ∧
    (firstError s i = none → ∃ t, exec i s = .next t ∧ t.err = s.err ∧ t.errcode = s.errcode)

theorem DecidedCompletion.firstErrorDecides {i : Instr} {s : State} (h : DecidedCompletion i s (exec i s))
    (noDraw : firstError s i ≠ some .invalidKey) : FirstErrorDecides i s := by
  obtain ⟨effect, outcome, decided⟩ := h
  unfold FirstErrorDecides
  rw [outcome]
  generalize firstError s i = first at *
  cases decided with
  | error e =>
    refine ⟨?_, fun h => absurd h noDraw, nofun⟩
    rintro _ ⟨⟩ -
    rfl
  | ok err errcode => exact ⟨nofun, nofun, fun _ => ⟨_, rfl, err, errcode⟩⟩

theorem firstError_edGenerate (rd ra : Reg) (s : State) :
    firstError s (.edGenerate rd ra) =
      if (Instr.edGenerate rd ra).wf && !destOverlap rd ra then executionError s (.edGenerate rd ra)
      else some .illegal := by
  cases wf : (Instr.edGenerate rd ra).wf with
  | false =>
    rw [firstError, if_pos wf]
    rfl
  | true =>
    rw [firstError_of_wf wf, ← errorOf_needDisjoint]
    cases overlap : destOverlap rd ra with
    | false =>
      rw [needDisjoint_ok overlap]
      rfl
    | true =>
      rw [needDisjoint_overlap overlap]
      rfl

/-- `ED_GENERATE` draws exactly when its other checks have passed; then the port's answer decides. -/
theorem edGenerate_firstErrorDecides (rd ra : Reg) (s : State) : FirstErrorDecides (.edGenerate rd ra) s := by
  have first := firstError_edGenerate rd ra s
  by_cases passed : ((Instr.edGenerate rd ra).wf && !destOverlap rd ra) = true
  · rw [if_pos passed] at first
    have drawn : exec (.edGenerate rd ra) s =
        .next (complete (takeDraw s) (generateFrom (takeDraw s) rd ra (nextDraw s))) := by
      rw [exec, execEdGenerate, if_pos passed]
      exact command_legal (Bool.and_eq_true_iff.mp passed).1 _ _
    unfold FirstErrorDecides
    rw [first, drawn, executionError]
    cases nextDraw s with
    | none => exact ⟨fun e h hne => absurd (Option.some.inj h).symm hne, fun _ => rfl, nofun⟩
    | some seed => exact ⟨nofun, nofun, fun _ => ⟨_, rfl, takeDraw_err s, takeDraw_errcode s⟩⟩
  · rw [if_neg passed] at first
    have stopped : DecidedCompletion (.edGenerate rd ra) s (exec (.edGenerate rd ra) s) := by
      rw [exec, execEdGenerate, if_neg passed]
      exact decidedCompletion_command fun _ => first ▸ .error .illegal
    exact stopped.firstErrorDecides (by rw [first]; nofun)

/-- Settles O21: an illegal word by the engine's turn on it, a command by the order of its checks, `ED_GENERATE`
with its draw by itself. -/
theorem firstFailingCheckDecides : Obligations.FirstFailingCheckDecides := by
  refine ⟨fun s rest w turn pending illegal => step_of_not_wordLegal turn pending illegal, fun i s => ?_⟩
  by_cases draw : ∃ rd ra, i = .edGenerate rd ra
  · obtain ⟨rd, ra, rfl⟩ := draw
    exact edGenerate_firstErrorDecides rd ra s
  · have noDraw : ∀ rd ra, i ≠ .edGenerate rd ra := fun rd ra h => draw ⟨rd, ra, h⟩
    exact (exec_decidedCompletion noDraw s).firstErrorDecides (firstError_ne_invalidKey noDraw s)

end Sys2Proof.Machine
end

section
/-! SUPPORT. The system commands (R120 to R124): what is read in a wiped state, and the completion of each command,
with the obligation O25 that rests on them.
-/
namespace Sys2Proof.Machine

/-! ## Reading in a wiped state (R121) -/

@[simp] theorem readF_wipeAll (s : State) (r : Reg) : readF (wipeAll s) r = none := Vector.getElem_replicate _

@[simp] theorem readG_wipeAll (s : State) (r : Reg) : readG (wipeAll s) r = none := Vector.getElem_replicate _

@[simp] theorem readB_wipeAll (s : State) (r : Reg) : readB (wipeAll s) r = 0#256 := Vector.getElem_replicate _

/-! ## The range of a G field (R91) -/

theorem gFieldOk_of_lt {r : Reg} (inRange : r.toNat < 8) : gFieldOk r = true := decide_eq_true inRange

theorem gFieldOk_of_ge {r : Reg} (above : 8 ≤ r.toNat) : gFieldOk r = false := decide_eq_false (Nat.not_lt.mpr above)

/-! ## The completions (R120 to R124) -/

theorem exec_nop (s : State) : exec .nop s = .next (finish s) := command_legal rfl _ _

theorem exec_wipeAll (s : State) : exec .wipeAll s = .next (finish (wipeAll s)) := command_legal rfl _ _

theorem exec_feWipe (s : State) (rd : Reg) : exec (.feWipe rd) s = .next (finish (putF s rd none)) :=
  command_legal rfl _ _

theorem exec_geWipe {rd : Reg} (inRange : rd.toNat < 8) (s : State) :
    exec (.geWipe rd) s = .next (finish (putG s rd none)) :=
  command_legal (i := .geWipe rd) (gFieldOk_of_lt inRange) _ _

theorem exec_geWipe_illegal {rd : Reg} (above : 8 ≤ rd.toNat) (s : State) :
    exec (.geWipe rd) s = .next (takeError s .illegal) :=
  command_illegal (i := .geWipe rd) (gFieldOk_of_ge above) _ _

theorem exec_bWipe (s : State) (rd : Reg) : exec (.bWipe rd) s = .next (finish (writeB s rd 0#256)) :=
  command_legal rfl _ _

/-- Settles O25: each command by its completion, and what `WIPE_ALL` leaves by reading in the wiped state. -/
theorem systemCommandResults : Obligations.SystemCommandResults := by
  intro s rd
  refine ⟨exec_nop s, ⟨finish (wipeAll s), exec_wipeAll s, ?wiped⟩, exec_feWipe s rd,
    fun inRange => exec_geWipe inRange s, fun above => exec_geWipe_illegal above s, exec_bWipe s rd⟩
  case wiped =>
    have emptyRam (a : Nat) : memRead (finish (wipeAll s)).msg a = 0#8 := rfl
    exact ⟨readF_wipeAll s, readG_wipeAll s, readB_wipeAll s, emptyRam, rfl, rfl, rfl, rfl, rfl, rfl, rfl, rfl⟩

end Sys2Proof.Machine
end

section
/-! SUPPORT. The field commands (R130 to R147): what a command does behind the Empty check of its one or two sources,
the values of the field operations as integers mod p, and what storing a loaded string gives; with the obligations O26
to O30 and O50 that rest on them.
-/
namespace Sys2Proof.Machine
open scoped Fin.CommRing

/-! ## Commands behind the Empty check of their sources (R99, R131) -/

section
variable {i : Instr} {s : State} {ra rb : Reg} {a b : Fe}

theorem command_source {effect : Fe → Except ErrCode State} (wf : i.wf = true) (ha : readF s ra = some a) :
    command i s (needF s ra >>= effect) = .next (complete s (effect a)) := by
  rw [command_legal wf, needF_some ha]
  rfl

theorem command_source_empty {effect : Fe → Except ErrCode State} (wf : i.wf = true) (ha : readF s ra = none) :
    command i s (needF s ra >>= effect) = .next (takeError s .empty) := by
  rw [command_legal wf, needF_empty ha]
  rfl

theorem command_sources {effect : Fe → Fe → Except ErrCode State} (wf : i.wf = true) (ha : readF s ra = some a)
    (hb : readF s rb = some b) :
    command i s (needF s ra >>= fun a => needF s rb >>= effect a) = .next (complete s (effect a b)) := by
  rw [command_source wf ha, needF_some hb]
  rfl

theorem command_sources_empty {effect : Fe → Fe → Except ErrCode State} (wf : i.wf = true)
    (h : readF s ra = none ∨ readF s rb = none) :
    command i s (needF s ra >>= fun a => needF s rb >>= effect a) = .next (takeError s .empty) := by
  cases ha : readF s ra with
  | none => exact command_source_empty wf ha
  | some a =>
    have hb : readF s rb = none := h.resolve_left (by rw [ha]; nofun)
    rw [command_source wf ha, needF_empty hb]
    rfl

end

/-! ## Constants, load and store (R132 to R135) -/

theorem exec_feFromBytes (s : State) (rd ra : Reg) :
    exec (.feFromBytes rd ra) s = .next (finish (putF s rd (some (feDec (readB s ra))))) :=
  command_legal rfl _ _

theorem exec_feToBytes {s : State} {ra : Reg} {a : Fe} (ha : readF s ra = some a) (rd : Reg) :
    exec (.feToBytes rd ra) s = .next (finish (writeB s rd (feEnc a))) :=
  command_source rfl ha

/-- Settles O26: each command by its completion, the values by what the load and the store of a string give. -/
theorem fieldLoadAndStore : Obligations.FieldLoadAndStore :=
  fun s rd ra => ⟨⟨0, rfl, command_legal rfl _ _⟩, ⟨1, rfl, command_legal rfl _ _⟩,
    ⟨feDec (readB s ra), feDec_val _, exec_feFromBytes s rd ra⟩,
    fun a ha => ⟨feEnc a, feEnc_toNat a, exec_feToBytes ha rd⟩, command_source_empty rfl⟩

/-! ## The round trip of a string (R134, R135) -/

/-- A string comes back from its field value exactly when it is the canonical one. -/
theorem feEnc_feDec_eq_self_iff (x : Bytes32) : feEnc (feDec x) = x ↔ x.toNat < prime25519 := by
  rw [← BitVec.toNat_inj, feEnc_toNat, feDec_val]
  constructor
  · intro same
    rw [← same]
    exact Nat.mod_lt _ (by norm_num)
  · intro canonical
    rw [Nat.mod_eq_of_lt (canonical.trans (by norm_num)), Nat.mod_eq_of_lt canonical]

/-- The 19 strings from p to 2^255 − 1. -/
theorem feDec_val_of_ge_prime {x : Bytes32} (above : prime25519 ≤ x.toNat) (below : x.toNat < 2 ^ 255) :
    (feDec x).val = x.toNat - prime25519 := by
  have close : x.toNat - prime25519 < prime25519 := by
    have : (2 : Nat) ^ 255 = prime25519 + 19 := by norm_num
    omega
  rw [feDec_val, Nat.mod_eq_of_lt below, Nat.mod_eq_sub_mod above, Nat.mod_eq_of_lt close]

/-- Bit 255 is dropped. -/
theorem feDec_val_of_bit255 {x : Bytes32} (bit255 : 2 ^ 255 ≤ x.toNat) :
    (feDec x).val = (x.toNat - 2 ^ 255) % prime25519 := by
  have width : x.toNat < 2 ^ 256 := x.isLt
  rw [feDec_val, Nat.mod_eq_sub_mod bit255, Nat.mod_eq_of_lt (b := 2 ^ 255) (by omega)]

/-- Settles O50: the store writes the encoding of the loaded value, whose three ranges have a lemma each. -/
theorem fieldRoundTrip : Obligations.FieldRoundTrip := by
  intro s t rf ra rb load
  obtain rfl : finish (putF s rf (some (feDec (readB s ra)))) = t := by
    rw [exec_feFromBytes] at load
    exact Host.Outcome.next.inj load
  have loaded := readF_putF_same s rf (some (feDec (readB s ra)))
  refine ⟨_, exec_feToBytes ((readF_finish _ _).trans loaded) rb, ?_⟩
  rw [readB_finish, readB_writeB_same, feEnc_toNat]
  exact ⟨feEnc_feDec_eq_self_iff _, feDec_val_of_ge_prime, feDec_val_of_bit255⟩

/-! ## Ring operations (R136 to R140, R145, R147) -/

/-- The difference wraps round p (R137). -/
theorem fe_sub_val (a b : Fe) :
    (a - b).val = if b.val ≤ a.val then a.val - b.val else a.val + prime25519 - b.val := by
  have hb := b.isLt
  have ha := a.isLt
  rw [Fin.val_sub]
  split
  · rw [show prime25519 - b.val + a.val = a.val - b.val + prime25519 by omega, Nat.add_mod_right,
      Nat.mod_eq_of_lt (by omega)]
  · rw [Nat.mod_eq_of_lt (by omega)]
    omega

/-- Settles O27: the two sources by the shape of the command, the values by the three ring operations. -/
theorem fieldRingCommands : Obligations.FieldRingCommands :=
  fun _ _ _ _ =>
    ⟨fun a b ha hb => ⟨⟨a + b, fe_add_val a b, command_sources rfl ha hb⟩,
      ⟨a - b, fe_sub_val a b, command_sources rfl ha hb⟩, ⟨a * b, fe_mul_val a b, command_sources rfl ha hb⟩⟩,
    fun h => ⟨command_sources_empty rfl h, command_sources_empty rfl h, command_sources_empty rfl h⟩⟩

theorem feSquare_val (a : Fe) : (feSquare a).val = a.val ^ 2 % prime25519 := by
  rw [feSquare_eq, fe_mul_val, pow_two]

theorem feSquareDouble_val (a : Fe) : (feSquareDouble a).val = 2 * a.val ^ 2 % prime25519 := by
  rw [feSquareDouble, feOfNat_val, pow_two]

/-- Settles O28: the source by the shape of the command, the values by the operations on the canonical value. -/
theorem fieldUnaryCommands : Obligations.FieldUnaryCommands :=
  fun s _ _ =>
    ⟨fun a ha => ⟨⟨feSquare a, feSquare_val a, command_source rfl ha⟩,
      ⟨feSquareDouble a, feSquareDouble_val a, command_source rfl ha⟩,
      ⟨feNegate a, feOfNat_val _, command_source rfl ha⟩,
      ⟨feMulSmall a (argSmall s), feOfNat_val _, command_source rfl ha⟩⟩,
    fun h => ⟨command_source_empty rfl h, command_source_empty rfl h, command_source_empty rfl h,
      command_source_empty rfl h⟩⟩

/-! ## Powers (R141, R142) -/

theorem prime_sub_two : prime25519 - 2 = 2 ^ 255 - 21 := by norm_num

theorem prime_sub_five_div_eight : (prime25519 - 5) / 8 = 2 ^ 252 - 3 := by norm_num

theorem feInvert_val (a : Fe) : (feInvert a).val = a.val ^ (2 ^ 255 - 21) % prime25519 := by
  rw [feInvert_eq, fe_pow_val, prime_sub_two]

theorem fePow2523_val (a : Fe) : (fePow2523 a).val = a.val ^ (2 ^ 252 - 3) % prime25519 := by
  rw [fePow2523_eq, fe_pow_val, prime_sub_five_div_eight]

/-- `invert` of a value that is not 0 is its inverse (R141). -/
theorem val_mul_feInvert_val {a : Fe} (nonzero : a.val ≠ 0) : a.val * (feInvert a).val % prime25519 = 1 := by
  have ha : a ≠ 0 := fun h => nonzero (congrArg Fin.val h)
  rw [← fe_mul_val, feInvert_eq, mul_comm, fe_invert_mul ha]
  rfl

/-- `invert` of 0 is 0 (R141). -/
theorem feInvert_val_of_zero {a : Fe} (zero : a.val = 0) : (feInvert a).val = 0 := by
  obtain rfl : a = 0 := fe_ext zero
  rw [feInvert_eq, zero_pow (by norm_num)]
  rfl

/-- Settles O29: the source by the shape of the command, the values by the powers, and Fermat's little theorem. -/
theorem fieldPowerCommands : Obligations.FieldPowerCommands :=
  fun _ _ _ =>
    ⟨fun a ha => ⟨⟨feInvert a, feInvert_val a, val_mul_feInvert_val, feInvert_val_of_zero, command_source rfl ha⟩,
      ⟨fePow2523 a, fePow2523_val a, command_source rfl ha⟩⟩,
    fun h => ⟨command_source_empty rfl h, command_source_empty rfl h⟩⟩

/-! ## Predicates and the conditional swap (R143, R144, R146) -/

/-- The swap bit is the parity of `ARG` (R93). -/
theorem argSwapBit_eq (s : State) : argSwapBit s = decide (s.arg.toNat % 2 = 1) := Nat.testBit_zero _

theorem exec_feCswap {s : State} {ra rb : Reg} {a b : Fe} (ha : readF s ra = some a) (hb : readF s rb = some b) :
    exec (.feCswap ra rb) s = .next (finish
      (putF (putF s ra (some (feCswap (argSwapBit s) a b).1)) rb (some (feCswap (argSwapBit s) a b).2))) :=
  command_sources rfl ha hb

/-- A register keeps its state when what it holds is written to it. -/
theorem putF_eq_self {s : State} {r : Reg} {v : Option Fe} (h : readF s r = v) : putF s r v = s := by
  subst h
  simp [putF, readF]

/-- With the bit 0 the two writes change nothing. -/
theorem exec_feCswap_of_even {s : State} {ra rb : Reg} {a b : Fe} (ha : readF s ra = some a)
    (hb : readF s rb = some b) (even : s.arg.toNat % 2 = 0) : exec (.feCswap ra rb) s = .next (finish s) := by
  have bit : argSwapBit s = false := by rw [argSwapBit_eq, even]; rfl
  rw [exec_feCswap ha hb, bit, feCswap_false, putF_eq_self ha, putF_eq_self hb]

theorem exec_feCswap_of_odd {s : State} {ra rb : Reg} {a b : Fe} (ha : readF s ra = some a)
    (hb : readF s rb = some b) (odd : s.arg.toNat % 2 = 1) :
    exec (.feCswap ra rb) s = .next (finish (putF (putF s ra (some b)) rb (some a))) := by
  have bit : argSwapBit s = true := by rw [argSwapBit_eq, odd]; rfl
  rw [exec_feCswap ha hb, bit, feCswap_true]

/-- Settles O30: the two tests by their source, the swap by its bit. -/
theorem fieldPredicatesAndSwap : Obligations.FieldPredicatesAndSwap :=
  fun _ _ _ =>
    ⟨fun _ ha => ⟨command_source rfl ha, command_source rfl ha,
      fun _ hb => ⟨exec_feCswap_of_odd ha hb, exec_feCswap_of_even ha hb⟩⟩,
    fun h => ⟨command_source_empty rfl h, command_source_empty rfl h⟩, command_sources_empty rfl⟩

end Sys2Proof.Machine
end

section
/-! SUPPORT. The reference chains (R150, R151) over any monoid: a run of squarings is a power, and the exponents are
composed of blocks of one bits; with the obligation O54 that rests on them.
-/
namespace Sys2Proof.Machine
open scoped Fin.CommRing

section
variable {M : Type} [Monoid M] {x y z : M}

theorem sqTimes_eq_pow : ∀ (n : Nat) (x : M), sqTimes (· * ·) n x = x ^ 2 ^ n
  | 0, x => by rw [pow_zero, pow_one]; rfl
  | n + 1, x => by rw [sqTimes, sqTimes_eq_pow n, ← pow_two, ← pow_mul, pow_succ' 2 n]

theorem sqTimes_of_pow {e : Nat} (n : Nat) (hx : x = z ^ e) : sqTimes (· * ·) n x = z ^ (e * 2 ^ n) := by
  rw [sqTimes_eq_pow, hx, ← pow_mul]

theorem mul_of_pow {e f : Nat} (hx : x = z ^ e) (hy : y = z ^ f) : x * y = z ^ (e + f) := by
  rw [hx, hy, ← pow_add]

/-- An exponent of `m` one bits in front of one of `n` one bits: the step from block to block of R150. -/
theorem sqTimes_mul_of_ones {m n : Nat} (hx : x = z ^ (2 ^ m - 1)) (hy : y = z ^ (2 ^ n - 1)) :
    sqTimes (· * ·) n x * y = z ^ (2 ^ (m + n) - 1) := by
  have bits : (2 ^ m - 1) * 2 ^ n + (2 ^ n - 1) = 2 ^ (m + n) - 1 := by
    have shift : 2 ^ n ≤ 2 ^ (m + n) := Nat.pow_le_pow_right two_pos (Nat.le_add_left n m)
    have one : 1 ≤ 2 ^ n := Nat.one_le_two_pow
    rw [Nat.sub_mul, ← pow_add, one_mul]
    omega
  rw [mul_of_pow (sqTimes_of_pow n hx) hy, bits]

/-- The shared part of the chains: `zk` of R150 is z^k up to `z22`, and from `z5` on k one bits of exponent. -/
theorem chain250_eq_pow (z : M) : chain250 (· * ·) z = (z ^ 11, z ^ (2 ^ 250 - 1)) := by
  have z1 : z = z ^ 1 := (pow_one z).symm
  have z2 := sqTimes_of_pow 1 z1
  have z9 := mul_of_pow z1 (sqTimes_of_pow 2 z2)
  have z11 := mul_of_pow z2 z9
  have z5 : _ = z ^ (2 ^ 5 - 1) := mul_of_pow z9 (sqTimes_of_pow 1 z11)
  have z10 : _ = z ^ (2 ^ 10 - 1) := sqTimes_mul_of_ones z5 z5
  have z20 : _ = z ^ (2 ^ 20 - 1) := sqTimes_mul_of_ones z10 z10
  have z40 : _ = z ^ (2 ^ 40 - 1) := sqTimes_mul_of_ones z20 z20
  have z50 : _ = z ^ (2 ^ 50 - 1) := sqTimes_mul_of_ones z40 z10
  have z100 : _ = z ^ (2 ^ 100 - 1) := sqTimes_mul_of_ones z50 z50
  have z200 : _ = z ^ (2 ^ 200 - 1) := sqTimes_mul_of_ones z100 z100
  have z250 : _ = z ^ (2 ^ 250 - 1) := sqTimes_mul_of_ones z200 z50
  exact Prod.ext z11 z250

/-- `z_250_0` shifted by five squarings, and z11 (R150). -/
theorem invertChain_eq_pow (z : M) : invertChain (· * ·) z = z ^ (2 ^ 255 - 21) := by
  have last := mul_of_pow (sqTimes_of_pow 5 (rfl : z ^ (2 ^ 250 - 1) = _)) (rfl : z ^ 11 = _)
  rw [invertChain, chain250_eq_pow, last]
  norm_num

/-- `z_250_0` shifted by two squarings, and z (R151). -/
theorem pow2523Chain_eq_pow (z : M) : pow2523Chain (· * ·) z = z ^ (2 ^ 252 - 3) := by
  have last := mul_of_pow (sqTimes_of_pow 2 (rfl : z ^ (2 ^ 250 - 1) = _)) (pow_one z).symm
  rw [pow2523Chain, chain250_eq_pow, last]
  norm_num

end

/-- Settles O54: the chains over the monoid of the field values. -/
theorem chainsComputeThePowers : Obligations.ChainsComputeThePowers :=
  fun z => ⟨by rw [invertChain_eq_pow, fe_pow_val], by rw [pow2523Chain_eq_pow, fe_pow_val]⟩

end Sys2Proof.Machine
end

section
/-! SUPPORT. The values of limb patterns (R160): the carry chain keeps the value (R163), the product's terms stand at
the weights of their limbs (R167), and the chains of powers carry over what a multiplication keeps (R150, R151); with
the obligation O58 that rests on them.
-/
namespace Sys2Proof.Machine
open scoped Fin.CommRing

/-! ## The integer of a pattern (R160, R161) -/

theorem limbShift_succ (i : Nat) : limbShift (i + 1) = limbShift i + limbWidth i := by
  unfold limbShift limbWidth
  split <;> omega

theorem limbsInt_eq_sum (h : Limbs) : limbsInt h = ∑ i ∈ Finset.range 10, limbAt h i * 2 ^ limbShift i := by
  simp [Finset.sum_range_succ, limbsInt, limbAt, limbShift]

theorem limbsInt_limbsOf (v : Nat → Int) : limbsInt (limbsOf v) = ∑ i ∈ Finset.range 10, v i * 2 ^ limbShift i := by
  rw [limbsInt_eq_sum]
  exact Finset.sum_congr rfl fun i hi => by rw [limbAt_limbsOf v (Finset.mem_range.mp hi)]

theorem limbsInt_setLimb (h : Limbs) {i : Nat} (hi : i < 10) (v : Int) :
    limbsInt (setLimb h i v) = limbsInt h + (v - limbAt h i) * 2 ^ limbShift i := by
  rw [← sub_eq_iff_eq_add', limbsInt_eq_sum, limbsInt_eq_sum, ← Finset.sum_sub_distrib,
    Finset.sum_eq_single_of_mem i (Finset.mem_range.mpr hi)]
  · rw [limbAt_setLimb h v i hi, if_pos rfl, sub_mul]
  · intro j _ other
    rw [limbAt_setLimb h v j hi, if_neg other, sub_self]

/-- What leaves limb i as `c` widths enters the next limb as `c`. -/
theorem limbsInt_moveCarry (h : Limbs) {i : Nat} (hi : i < 9) (c : Int) :
    let moved := setLimb h (i + 1) (limbAt h (i + 1) + c)
    limbsInt (setLimb moved i (limbAt moved i - c * 2 ^ limbWidth i)) = limbsInt h := by
  intro moved
  rw [limbsInt_setLimb _ (by omega), limbsInt_setLimb _ (by omega), limbShift_succ, pow_add]
  ring

/-- What leaves limb 9 as `c` widths enters limb 0 as `19 * c`, which is less by `c` times p. -/
theorem limbsInt_wrapCarry (h : Limbs) (c : Int) :
    let moved := setLimb h 0 (limbAt h 0 + 19 * c)
    limbsInt (setLimb moved 9 (limbAt moved 9 - c * 2 ^ limbWidth 9)) = limbsInt h - c * (prime25519 : Int) := by
  intro moved
  rw [limbsInt_setLimb _ (by decide), limbsInt_setLimb _ (by decide)]
  norm_num [limbShift, limbWidth]
  ring

/-! ## The value of a pattern (R160) -/

theorem feOfNat_eq_cast (n : Nat) : feOfNat n = (n : Fe) := rfl

theorem fe_cast_prime : (prime25519 : Fe) = 0 := feOfNat_prime

theorem limbsVal_eq_cast (h : Limbs) : limbsVal h = (limbsInt h : Fe) := by
  have residue : ((limbsInt h % (prime25519 : Int)).toNat : Int) = limbsInt h % (prime25519 : Int) :=
    Int.toNat_of_nonneg (Int.emod_nonneg _ (by norm_num))
  have parts := congrArg (Int.cast : Int → Fe) (Int.emod_add_mul_ediv (limbsInt h) prime25519)
  rw [← residue, Int.cast_add, Int.cast_mul, Int.cast_natCast, Int.cast_natCast, fe_cast_prime, zero_mul,
    add_zero] at parts
  exact parts

theorem limbsVal_eq_sum (h : Limbs) :
    limbsVal h = ∑ i ∈ Finset.range 10, (limbAt h i : Fe) * 2 ^ limbShift i := by
  rw [limbsVal_eq_cast, limbsInt_eq_sum]
  push_cast
  rfl

theorem limbsVal_limbsOf (v : Nat → Int) :
    limbsVal (limbsOf v) = ∑ i ∈ Finset.range 10, (v i : Fe) * 2 ^ limbShift i := by
  rw [limbsVal_eq_cast, limbsInt_limbsOf]
  push_cast
  rfl

/-! ## The carry chain keeps the value (R163) -/

theorem limbsVal_carryStep (h : Limbs) {i : Nat} (hi : i < 10) : limbsVal (carryStep i h) = limbsVal h := by
  rw [limbsVal_eq_cast, limbsVal_eq_cast]
  rcases Nat.lt_or_ge i 9 with inner | last
  · rw [carryStep, if_pos inner, limbsInt_moveCarry h inner]
  · obtain rfl : i = 9 := by omega
    rw [carryStep, if_neg last.not_gt, limbsInt_wrapCarry, Int.cast_sub, Int.cast_mul, Int.cast_natCast,
      fe_cast_prime, mul_zero, sub_zero]

theorem limbsVal_foldl_carryStep : ∀ (l : List Nat) (h : Limbs), (∀ i ∈ l, i < 10) →
    limbsVal (l.foldl (fun h i => carryStep i h) h) = limbsVal h
  | [], _, _ => rfl
  | i :: rest, h, below => by
    rw [List.forall_mem_cons] at below
    rw [List.foldl_cons, limbsVal_foldl_carryStep rest _ below.2, limbsVal_carryStep h below.1]

theorem carryOrder_lt : ∀ i ∈ carryOrder, i < 10 := by decide

theorem limbsVal_carryChain (h : Limbs) : limbsVal (carryChain h) = limbsVal h :=
  limbsVal_foldl_carryStep carryOrder h carryOrder_lt

/-! ## The operations limb by limb (R166, R169, R171) -/

theorem limbsVal_limbsAdd (f g : Limbs) : limbsVal (limbsAdd f g) = limbsVal f + limbsVal g := by
  rw [limbsAdd, limbsVal_carryChain, limbsVal_limbsOf, limbsVal_eq_sum f, limbsVal_eq_sum g, ← Finset.sum_add_distrib]
  simp only [Int.cast_add, add_mul]

theorem limbsVal_limbsSub (f g : Limbs) : limbsVal (limbsSub f g) = limbsVal f - limbsVal g := by
  rw [limbsSub, limbsVal_carryChain, limbsVal_limbsOf, limbsVal_eq_sum f, limbsVal_eq_sum g, ← Finset.sum_sub_distrib]
  simp only [Int.cast_sub, sub_mul]

theorem limbsVal_limbsNegate (f : Limbs) : limbsVal (limbsNegate f) = -limbsVal f := by
  rw [limbsNegate, limbsVal_limbsOf, limbsVal_eq_sum f, ← Finset.sum_neg_distrib]
  simp only [Int.cast_neg, neg_mul]

theorem limbsVal_limbsMulSmall (f : Limbs) (k : Nat) : limbsVal (limbsMulSmall f k) = feMulSmall (limbsVal f) k := by
  rw [limbsMulSmall, limbsVal_carryChain, limbsVal_limbsOf, feMulSmall_eq, feOfNat_eq_cast, limbsVal_eq_sum f,
    Finset.sum_mul]
  simp only [Int.cast_mul, Int.cast_natCast, mul_right_comm]

/-! ## The product (R167, R168) -/

/-- 2^255 = 19 mod p, by which what wraps is folded in (R161). -/
theorem fe_two_pow_255 : (2 : Fe) ^ 255 = 19 := by decide +kernel

/-- The exponents of two weights against that of the weight their product goes to (R167). -/
theorem limbShift_add {i j : Nat} (hi : i < 10) (hj : j < 10) :
    limbShift i + limbShift j =
      limbShift ((i + j) % 10) + (if i % 2 = 1 ∧ j % 2 = 1 then 1 else 0) + if i + j ≥ 10 then 255 else 0 := by
  unfold limbShift
  split <;> split <;> omega

/-- A term of the product, with its factors 2 and 19, has the value of its two limbs at their weights. -/
theorem fe_mulTerm (f g : Limbs) {i j : Nat} (hi : i < 10) (hj : j < 10) :
    (mulTerm f g i j : Fe) * 2 ^ limbShift ((i + j) % 10) =
      (limbAt f i : Fe) * 2 ^ limbShift i * ((limbAt g j : Fe) * 2 ^ limbShift j) := by
  rw [mul_mul_mul_comm, ← pow_add, limbShift_add hi hj, pow_add, pow_add, mulTerm]
  split <;> split <;> push_cast [fe_two_pow_255] <;> ring

/-- `mulPartial` pairs i with (k + 10 − i) mod 10: for a fixed i that runs through all j, with k = (i + j) mod 10. -/
theorem sum_range_ten_pairs (i : Nat) (hi : i < 10) (F : Nat → Nat → Fe) :
    ∑ k ∈ Finset.range 10, F k ((k + 10 - i) % 10) = ∑ j ∈ Finset.range 10, F ((i + j) % 10) j := by
  refine Finset.sum_bij' (fun k _ => (k + 10 - i) % 10) (fun j _ => (i + j) % 10) ?_ ?_ ?_ ?_ ?_ <;>
    simp only [Finset.mem_range] <;> intro a ha
  · omega
  · omega
  · omega
  · omega
  · rw [show (i + (a + 10 - i) % 10) % 10 = a by omega]

theorem mulAcc_eq_sum (f g : Limbs) (k : Nat) :
    mulAcc f g k = ∑ i ∈ Finset.range 10, mulTerm f g i ((k + 10 - i) % 10) := rfl

/-- The ten accumulators hold the product: each pair of limbs stands in one of them. -/
theorem limbsVal_limbsOf_mulAcc (f g : Limbs) : limbsVal (limbsOf (mulAcc f g)) = limbsVal f * limbsVal g := by
  calc limbsVal (limbsOf (mulAcc f g))
      = ∑ k ∈ Finset.range 10, ∑ i ∈ Finset.range 10,
          (mulTerm f g i ((k + 10 - i) % 10) : Fe) * 2 ^ limbShift k := by
        simp only [limbsVal_limbsOf, mulAcc_eq_sum, Int.cast_sum, Finset.sum_mul]
    _ = ∑ i ∈ Finset.range 10, ∑ j ∈ Finset.range 10,
          (mulTerm f g i j : Fe) * 2 ^ limbShift ((i + j) % 10) := by
        rw [Finset.sum_comm]
        exact Finset.sum_congr rfl fun i hi =>
          sum_range_ten_pairs i (Finset.mem_range.mp hi) fun k j => (mulTerm f g i j : Fe) * 2 ^ limbShift k
    _ = ∑ i ∈ Finset.range 10, ∑ j ∈ Finset.range 10,
          (limbAt f i : Fe) * 2 ^ limbShift i * ((limbAt g j : Fe) * 2 ^ limbShift j) :=
        Finset.sum_congr rfl fun i hi => Finset.sum_congr rfl fun j hj =>
          fe_mulTerm f g (Finset.mem_range.mp hi) (Finset.mem_range.mp hj)
    _ = limbsVal f * limbsVal g := by rw [limbsVal_eq_sum f, limbsVal_eq_sum g, Finset.sum_mul_sum]

theorem limbsVal_limbsMul (f g : Limbs) : limbsVal (limbsMul f g) = limbsVal f * limbsVal g := by
  rw [limbsMul, limbsVal_carryChain, limbsVal_limbsOf_mulAcc]

theorem limbsVal_limbsSquareDouble (f : Limbs) : limbsVal (limbsSquareDouble f) = feSquareDouble (limbsVal f) := by
  rw [limbsSquareDouble, limbsVal_carryChain, feSquareDouble_eq, ← limbsVal_limbsOf_mulAcc, limbsVal_limbsOf,
    limbsVal_limbsOf, ← Finset.sum_add_distrib]
  simp only [two_mul, Int.cast_add, add_mul]

/-! ## The powers (R150, R151) -/

section
variable {α β : Type} {mulα : α → α → α} {mulβ : β → β → β} {R : α → β → Prop}
  (mul_rel : ∀ {a b x y}, R a x → R b y → R (mulα a b) (mulβ x y))
include mul_rel

theorem sqTimes_rel : ∀ (n : Nat) {a : α} {x : β}, R a x → R (sqTimes mulα n a) (sqTimes mulβ n x)
  | 0, _, _, h => h
  | n + 1, _, _, h => sqTimes_rel n (mul_rel h h)

/-- What two multiplications keep between their arguments, the chains keep: they are built of multiplications. -/
theorem chain250_rel {a : α} {x : β} (h : R a x) :
    R (chain250 mulα a).1 (chain250 mulβ x).1 ∧ R (chain250 mulα a).2 (chain250 mulβ x).2 := by
  have block {m n : α} {y z : β} (k : Nat) (hm : R m y) (hn : R n z) :
      R (mulα (sqTimes mulα k m) n) (mulβ (sqTimes mulβ k y) z) := mul_rel (sqTimes_rel mul_rel k hm) hn
  have z2 := sqTimes_rel mul_rel 1 h
  have z9 := mul_rel h (sqTimes_rel mul_rel 2 z2)
  have z11 := mul_rel z2 z9
  have z5 := mul_rel z9 (sqTimes_rel mul_rel 1 z11)
  have z10 := block 5 z5 z5
  have z20 := block 10 z10 z10
  have z40 := block 20 z20 z20
  have z50 := block 10 z40 z10
  have z100 := block 50 z50 z50
  have z200 := block 100 z100 z100
  exact ⟨z11, block 50 z200 z50⟩

theorem invertChain_rel {a : α} {x : β} (h : R a x) : R (invertChain mulα a) (invertChain mulβ x) :=
  mul_rel (sqTimes_rel mul_rel 5 (chain250_rel mul_rel h).2) (chain250_rel mul_rel h).1

theorem pow2523Chain_rel {a : α} {x : β} (h : R a x) : R (pow2523Chain mulα a) (pow2523Chain mulβ x) :=
  mul_rel (sqTimes_rel mul_rel 2 (chain250_rel mul_rel h).2) h

end

theorem limbsMul_represents {f g : Limbs} {a b : Fe} (hf : limbsVal f = a) (hg : limbsVal g = b) :
    limbsVal (limbsMul f g) = a * b := by
  rw [limbsVal_limbsMul, hf, hg]

theorem limbsVal_limbsInvert (f : Limbs) : limbsVal (limbsInvert f) = feInvert (limbsVal f) := by
  rw [feInvert_eq, prime_sub_two, ← invertChain_eq_pow]
  exact invertChain_rel (R := fun h a => limbsVal h = a) limbsMul_represents rfl

theorem limbsVal_limbsPow2523 (f : Limbs) : limbsVal (limbsPow2523 f) = fePow2523 (limbsVal f) := by
  rw [fePow2523_eq, prime_sub_five_div_eight, ← pow2523Chain_eq_pow]
  exact pow2523Chain_rel (R := fun h a => limbsVal h = a) limbsMul_represents rfl

/-! ## `from_bytes` (R164) -/

/-- The digits of a number below the weight of limb m are the number mod that weight. -/
theorem sum_limb_digits (n : Nat) : ∀ m : Nat,
    ∑ i ∈ Finset.range m, n / 2 ^ limbShift i % 2 ^ limbWidth i * 2 ^ limbShift i = n % 2 ^ limbShift m
  | 0 => (Nat.mod_one n).symm
  | m + 1 => by
    rw [Finset.sum_range_succ, sum_limb_digits n m, limbShift_succ, pow_add, Nat.mod_mul, mul_comm (2 ^ limbShift m)]

theorem limbsInt_limbsCut (b : Bytes32) : limbsInt (limbsCut b) = (b.toNat % 2 ^ 255 : Nat) := by
  have whole := sum_limb_digits (b.toNat % 2 ^ 255) 10
  rw [show limbShift 10 = 255 from rfl, Nat.mod_mod] at whole
  rw [limbsCut, limbsInt_limbsOf]
  exact_mod_cast whole

theorem limbsVal_limbsFromBytes (b : Bytes32) : limbsVal (limbsFromBytes b) = feDec b := by
  rw [limbsFromBytes, limbsVal_carryChain, limbsVal_eq_cast, limbsInt_limbsCut, Int.cast_natCast, feDec, feOfNat_eq_cast]

/-! ## The conditional swap (R170) -/

theorem limbsOf_eq {v : Nat → Int} {h : Limbs} (limbs : ∀ i, i < 10 → v i = limbAt h i) : limbsOf v = h := by
  rw [← limbsOf_limbAt h]
  simp [limbsOf, limbs]

theorem toInt_ofInt_limbAt {h : Limbs} (ht : tight h) {i : Nat} (hi : i < 10) :
    (BitVec.ofInt 32 (limbAt h i)).toInt = limbAt h i := by
  have bounds := abs_le.mp ((ht i hi).trans (limbBound_le i))
  rw [BitVec.toInt_ofInt, Int.bmod_eq_of_le (by omega) (by omega)]

theorem swapDiff_false (x y : Int) : swapDiff false x y = 0#32 := BitVec.and_zero

theorem swapDiff_true (x y : Int) : swapDiff true x y = BitVec.ofInt 32 x ^^^ BitVec.ofInt 32 y := BitVec.and_allOnes

theorem limbsCswap_false {f g : Limbs} (hf : tight f) (hg : tight g) : limbsCswap false f g = (f, g) := by
  refine congrArg₂ Prod.mk (limbsOf_eq fun i hi => ?_) (limbsOf_eq fun i hi => ?_)
  · rw [swapDiff_false, BitVec.xor_zero, toInt_ofInt_limbAt hf hi]
  · rw [swapDiff_false, BitVec.xor_zero, toInt_ofInt_limbAt hg hi]

theorem limbsCswap_true {f g : Limbs} (hf : tight f) (hg : tight g) : limbsCswap true f g = (g, f) := by
  refine congrArg₂ Prod.mk (limbsOf_eq fun i hi => ?_) (limbsOf_eq fun i hi => ?_)
  · rw [swapDiff_true, ← BitVec.xor_assoc, BitVec.xor_self, BitVec.zero_xor, toInt_ofInt_limbAt hg hi]
  · rw [swapDiff_true, BitVec.xor_comm, BitVec.xor_assoc, BitVec.xor_self, BitVec.xor_zero, toInt_ofInt_limbAt hf hi]

theorem limbsCswap_eq {f g : Limbs} (hf : tight f) (hg : tight g) :
    ∀ bit, limbsCswap bit f g = if bit then (g, f) else (f, g)
  | false => limbsCswap_false hf hg
  | true => limbsCswap_true hf hg

/-- Settles O58: each operation by its own lemma; the carry chain keeps the value, and the integers before it are sums
over the weights. -/
theorem limbOperationsRefine : Obligations.LimbOperationsRefine :=
  ⟨limbsVal_carryChain, rfl, rfl, limbsVal_limbsFromBytes,
    fun f g => ⟨limbsVal_limbsAdd f g, limbsVal_limbsSub f g, limbsVal_limbsNegate f, limbsVal_limbsMul f g,
      limbsVal_limbsMul f f, limbsVal_limbsSquareDouble f⟩,
    limbsVal_limbsMulSmall, fun f => ⟨limbsVal_limbsInvert f, limbsVal_limbsPow2523 f⟩,
    fun bit _ _ hf hg => limbsCswap_eq hf hg bit⟩

end Sys2Proof.Machine
end

section
/-! SUPPORT. The full reduction of R165 on integers: the quotient of the first loop by nested floor divisions, the
carries of the second loop mod 2^255; with the obligation O60 that rests on them.
-/
namespace Sys2Proof.Machine

/-! ## The quotient of the first loop -/

/-- The floor divisions by the widths, limb after limb, are one division by the weight. -/
theorem foldl_floor_eq (h : Limbs) (q : Int) : ∀ m : Nat,
    (List.range m).foldl (fun q i => (limbAt h i + q) / 2 ^ limbWidth i) q =
      (∑ i ∈ Finset.range m, limbAt h i * 2 ^ limbShift i + q) / 2 ^ limbShift m
  | 0 => by simp [limbShift]
  | m + 1 => by
    have weight : (0 : Int) < 2 ^ limbShift m := by positivity
    rw [List.range_succ, List.foldl_append, foldl_floor_eq h q m, List.foldl_cons, List.foldl_nil,
      Finset.sum_range_succ, limbShift_succ, pow_add, ← Int.ediv_ediv_of_nonneg weight.le, add_right_comm,
      Int.add_mul_ediv_right _ _ weight.ne', add_comm]

theorem limbsQuotient_eq (h : Limbs) : limbsQuotient h = (limbsInt h + (19 * h.h9 + 2 ^ 24) / 2 ^ 25) / 2 ^ 255 := by
  rw [limbsQuotient, foldl_floor_eq, limbsInt_eq_sum]
  rfl

/-- The limbs of a tight pattern, with the numbers of R162. -/
theorem tight_bounds {h : Limbs} (ht : tight h) :
    (|h.h0| ≤ 33889976 ∧ |h.h2| ≤ 33889976 ∧ |h.h4| ≤ 33889976 ∧ |h.h6| ≤ 33889976 ∧ |h.h8| ≤ 33889976) ∧
      |h.h1| ≤ 16944988 ∧ |h.h3| ≤ 16944988 ∧ |h.h5| ≤ 16944988 ∧ |h.h7| ≤ 16944988 ∧ |h.h9| ≤ 16944988 :=
  ⟨⟨ht 0 (by decide), ht 2 (by decide), ht 4 (by decide), ht 6 (by decide), ht 8 (by decide)⟩,
    ht 1 (by decide), ht 3 (by decide), ht 5 (by decide), ht 7 (by decide), ht 9 (by decide)⟩

/-- The limbs below limb 9 of a tight pattern add up to less than the weight of limb 9. -/
theorem limbsInt_near_h9 {h : Limbs} (ht : tight h) : |limbsInt h - h.h9 * 2 ^ 230| < 2 ^ 230 := by
  obtain ⟨⟨b0, b2, b4, b6, b8⟩, b1, b3, b5, b7, -⟩ := tight_bounds ht
  rw [abs_le] at b0 b1 b2 b3 b4 b5 b6 b7 b8
  rw [limbsInt, abs_lt]
  omega

theorem cast_prime25519 : (prime25519 : Int) = 2 ^ 255 - 19 := by norm_num

/-- The quotient of a tight pattern is its quotient by p: 0, or −1 for a negative integer (R165). -/
theorem limbsQuotient_eq_ediv {h : Limbs} (ht : tight h) : limbsQuotient h = limbsInt h / (prime25519 : Int) := by
  have near := abs_lt.mp (limbsInt_near_h9 ht)
  have top := abs_le.mp (tight_bounds ht).2.2.2.2.2
  rw [limbsQuotient_eq, cast_prime25519]
  rcases lt_or_ge (limbsInt h) 0 with negative | nonneg
  · trans -1 <;> omega
  · trans 0 <;> omega

/-! ## The carries of the second loop -/

/-- A floor carry keeps the integer mod 2^255: it moves inside the pattern, or drops out of limb 9. -/
theorem limbsInt_floorCarryStep (h : Limbs) {i : Nat} (hi : i < 10) :
    limbsInt (floorCarryStep h i) ≡ limbsInt h [ZMOD 2 ^ 255] := by
  rcases Nat.lt_or_ge i 9 with inner | last
  · rw [floorCarryStep, if_pos inner, limbsInt_moveCarry h inner]
  · obtain rfl : i = 9 := by omega
    rw [floorCarryStep, if_neg last.not_gt, limbsInt_setLimb _ hi]
    refine (Int.modEq_iff_add_fac).mpr ⟨h.h9 / 2 ^ 25, ?_⟩
    norm_num [limbAt, limbShift, limbWidth]
    ring

theorem limbsInt_foldl_floorCarryStep (h : Limbs) : ∀ m : Nat, m ≤ 10 →
    limbsInt ((List.range m).foldl floorCarryStep h) ≡ limbsInt h [ZMOD 2 ^ 255]
  | 0, _ => rfl
  | m + 1, hm => by
    rw [List.range_succ, List.foldl_append]
    exact (limbsInt_floorCarryStep _ hm).trans (limbsInt_foldl_floorCarryStep h m (by omega))

theorem limbAt_floorCarryStep_same (h : Limbs) {i : Nat} (hi : i < 10) :
    limbAt (floorCarryStep h i) i = limbAt h i % 2 ^ limbWidth i := by
  have rest := Int.emod_def (limbAt h i) (2 ^ limbWidth i)
  rw [floorCarryStep, limbAt_setLimb _ _ _ hi, if_pos rfl, rest, mul_comm]
  split
  · rw [limbAt_setLimb _ _ _ (by omega), if_neg (by omega)]
  · rfl

theorem limbAt_floorCarryStep_below (h : Limbs) {i j : Nat} (hi : i < 10) (hj : j < i) :
    limbAt (floorCarryStep h i) j = limbAt h j := by
  rw [floorCarryStep, limbAt_setLimb _ _ _ hi, if_neg hj.ne]
  split
  · rw [limbAt_setLimb _ _ _ (by omega), if_neg (by omega)]
  · rfl

/-- A limb the loop has passed is a digit, and stays it. -/
theorem limbAt_foldl_floorCarryStep (h : Limbs) : ∀ m : Nat, m ≤ 10 → ∀ j, j < m →
    0 ≤ limbAt ((List.range m).foldl floorCarryStep h) j ∧
      limbAt ((List.range m).foldl floorCarryStep h) j < 2 ^ limbWidth j
  | m + 1, hm, j, hj => by
    rw [List.range_succ, List.foldl_append, List.foldl_cons, List.foldl_nil]
    rcases Nat.lt_succ_iff_lt_or_eq.mp hj with below | rfl
    · rw [limbAt_floorCarryStep_below _ hm below]
      exact limbAt_foldl_floorCarryStep h m (by omega) j below
    · rw [limbAt_floorCarryStep_same _ hm]
      exact ⟨Int.emod_nonneg _ (by positivity), Int.emod_lt_of_pos _ (by positivity)⟩

/-- Digits below limb m make up an integer below the weight of limb m. -/
theorem sum_digits_bounds (h : Limbs) : ∀ m : Nat,
    (∀ i, i < m → 0 ≤ limbAt h i ∧ limbAt h i < 2 ^ limbWidth i) →
    0 ≤ ∑ i ∈ Finset.range m, limbAt h i * 2 ^ limbShift i ∧
      ∑ i ∈ Finset.range m, limbAt h i * 2 ^ limbShift i < 2 ^ limbShift m
  | 0, _ => by norm_num [limbShift]
  | m + 1, digits => by
    obtain ⟨low, high⟩ := sum_digits_bounds h m fun i hi => digits i (by omega)
    obtain ⟨digit_nonneg, digit_lt⟩ := digits m m.lt_succ_self
    have weight : (0 : Int) < 2 ^ limbShift m := by positivity
    have term_nonneg := mul_nonneg digit_nonneg weight.le
    have term_le := mul_le_mul_of_nonneg_right (Int.add_one_le_of_lt digit_lt) weight.le
    rw [Finset.sum_range_succ, limbShift_succ, pow_add]
    constructor <;> linarith

/-- The reduced pattern of any pattern: what the first loop's quotient adds, mod 2^255. -/
theorem limbsInt_limbsReduced (h : Limbs) : limbsInt (limbsReduced h) = (limbsInt h + 19 * limbsQuotient h) % 2 ^ 255 := by
  have start : limbsInt (setLimb h 0 (h.h0 + 19 * limbsQuotient h)) = limbsInt h + 19 * limbsQuotient h := by
    rw [limbsInt_setLimb h (by decide)]
    norm_num [limbAt, limbShift]
  rw [← start, limbsReduced]
  set reduced := (List.range 10).foldl floorCarryStep (setLimb h 0 (h.h0 + 19 * limbsQuotient h))
  obtain ⟨low, high⟩ := sum_digits_bounds reduced 10 (limbAt_foldl_floorCarryStep _ 10 le_rfl)
  rw [← limbsInt_eq_sum] at low high
  rw [← Int.emod_eq_of_lt low high]
  exact limbsInt_foldl_floorCarryStep _ 10 le_rfl

/-- Adding 19 times the quotient, mod 2^255, takes the quotient times p away (R165). -/
theorem limbsInt_limbsReduced_of_tight {h : Limbs} (ht : tight h) :
    limbsInt (limbsReduced h) = limbsInt h % (prime25519 : Int) := by
  rw [limbsInt_limbsReduced, limbsQuotient_eq_ediv ht, cast_prime25519]
  omega

theorem limbsVal_val (h : Limbs) : ((limbsVal h).val : Int) = limbsInt h % (prime25519 : Int) := by
  rw [limbsVal, feOfNat_val, Int.natCast_mod, Int.toNat_of_nonneg (Int.emod_nonneg _ (by norm_num)), Int.emod_emod]

/-- Settles O60: the reduced pattern's integer is the value. -/
theorem limbToBytesIsCanonical : Obligations.LimbToBytesIsCanonical := fun h ht => by
  rw [limbsToBytes, limbsInt_limbsReduced_of_tight ht, ← limbsVal_val, BitVec.ofInt_natCast, feEnc]

end Sys2Proof.Machine
end

section
/-! SUPPORT. The bounds of the limb datapath (R162, R172): the carry chain on bounds in place of limbs, evaluated once
from 2^60 on (R163), and the products, terms and accumulators of tight patterns; with the obligation O59 that rests
on them.
-/
namespace Sys2Proof.Machine

/-! ## The carry step on limbs (R163) -/

/-- The carry out of limb i. -/
def carryOut (i : Nat) (h : Limbs) : Int := (limbAt h i + 2 ^ (limbWidth i - 1)) / 2 ^ limbWidth i

/-- The limb a carry out of limb i goes to. -/
def carryTarget (i : Nat) : Nat := if i < 9 then i + 1 else 0

/-- What the carry step adds to the limb the carry goes to. -/
def carryIn (i : Nat) (h : Limbs) : Int := if i < 9 then carryOut i h else 19 * carryOut i h

theorem carryTarget_lt {i : Nat} (hi : i < 10) : carryTarget i < 10 ∧ carryTarget i ≠ i := by
  unfold carryTarget
  split <;> omega

theorem carryStep_eq (i : Nat) (h : Limbs) :
    carryStep i h =
      let moved := setLimb h (carryTarget i) (limbAt h (carryTarget i) + carryIn i h)
      setLimb moved i (limbAt moved i - carryOut i h * 2 ^ limbWidth i) := by
  unfold carryStep carryTarget carryIn carryOut
  split <;> rfl

theorem carryStepValues_eq (i : Nat) (h : Limbs) :
    carryStepValues i h =
      [limbAt h i + 2 ^ (limbWidth i - 1), carryOut i h, carryIn i h, limbAt h (carryTarget i) + carryIn i h,
        carryOut i h * 2 ^ limbWidth i, limbAt h i - carryOut i h * 2 ^ limbWidth i] := rfl

theorem limbAt_addLimb (h : Limbs) {t : Nat} (ht : t < 10) (c : Int) (j : Nat) :
    limbAt (setLimb h t (limbAt h t + c)) j = if j = t then limbAt h j + c else limbAt h j := by
  rw [limbAt_setLimb h _ j ht]
  split
  · next same => rw [same]
  · rfl

theorem limbAt_carryStep (h : Limbs) {i : Nat} (hi : i < 10) (j : Nat) :
    limbAt (carryStep i h) j =
      if j = i then limbAt h i - carryOut i h * 2 ^ limbWidth i
      else if j = carryTarget i then limbAt h j + carryIn i h else limbAt h j := by
  obtain ⟨below, ne⟩ := carryTarget_lt hi
  rw [carryStep_eq, limbAt_setLimb _ _ _ hi, limbAt_addLimb h below, limbAt_addLimb h below, if_neg ne.symm]

/-! ## The carry step on bounds -/

/-- Each limb of `h` is at most the limb of `b` in magnitude. -/
def within (b h : Limbs) : Prop := ∀ i, i < 10 → |limbAt h i| ≤ limbAt b i

/-- The bounds after a carry step from limb i: half the width for limb i, and the largest carry added to the limb it
goes to. -/
def carryBound (i : Nat) (b : Limbs) : Limbs :=
  setLimb (setLimb b (carryTarget i) (limbAt b (carryTarget i) + carryIn i b)) i (2 ^ (limbWidth i - 1))

theorem limbAt_carryBound (b : Limbs) {i : Nat} (hi : i < 10) (j : Nat) :
    limbAt (carryBound i b) j =
      if j = i then 2 ^ (limbWidth i - 1)
      else if j = carryTarget i then limbAt b j + carryIn i b else limbAt b j := by
  rw [carryBound, limbAt_setLimb _ _ _ hi, limbAt_addLimb b (carryTarget_lt hi).1]

theorem limbWidth_cases (i : Nat) : limbWidth i = 26 ∨ limbWidth i = 25 := by
  unfold limbWidth
  split <;> simp

/-- The rounding constant is half the width (R163). -/
theorem half_width_bounds (i : Nat) : (0 : Int) < 2 ^ (limbWidth i - 1) ∧ (2 : Int) ^ (limbWidth i - 1) ≤ 2 ^ 25 := by
  unfold limbWidth
  split <;> decide

/-- The carry rounds to nearest, so at most half the width is left (R163). -/
theorem carryRemainder_le (i : Nat) (h : Limbs) :
    |limbAt h i - carryOut i h * 2 ^ limbWidth i| ≤ 2 ^ (limbWidth i - 1) := by
  unfold carryOut
  rcases limbWidth_cases i with width | width <;> rw [width, abs_le] <;> omega

/-- The carry grows with the limb. -/
theorem carryOut_le {b h : Limbs} (hb : within b h) {i : Nat} (hi : i < 10) : |carryOut i h| ≤ carryOut i b := by
  have bound := abs_le.mp (hb i hi)
  unfold carryOut
  rcases limbWidth_cases i with width | width <;> rw [width, abs_le] <;> omega

theorem carryIn_le {b h : Limbs} (hb : within b h) {i : Nat} (hi : i < 10) : |carryIn i h| ≤ carryIn i b := by
  have bound := carryOut_le hb hi
  unfold carryIn
  split
  · exact bound
  · rw [abs_mul, Nat.abs_ofNat]
    omega

theorem within_carryStep {b h : Limbs} (hb : within b h) {i : Nat} (hi : i < 10) :
    within (carryBound i b) (carryStep i h) := by
  intro j hj
  rw [limbAt_carryStep h hi, limbAt_carryBound b hi]
  split
  · exact carryRemainder_le i h
  · split
    · exact (abs_add_le _ _).trans (add_le_add (hb j hj) (carryIn_le hb hi))
    · exact hb j hj

theorem within_foldl_carryStep : ∀ (l : List Nat) {b h : Limbs}, (∀ i ∈ l, i < 10) → within b h →
    within (l.foldl (fun b i => carryBound i b) b) (l.foldl (fun h i => carryStep i h) h)
  | [], _, _, _, hb => hb
  | _ :: rest, _, _, below, hb => by
    rw [List.forall_mem_cons] at below
    exact within_foldl_carryStep rest below.2 (within_carryStep hb below.1)

/-! ## What the carry chain gives from limbs below 2^60 (R162, R172) -/

/-- The bound 2^60 on every limb. -/
def accBound : Limbs := limbsOf fun _ => 2 ^ 60

theorem within_accBound {h : Limbs} (below : ∀ i, i < 10 → |limbAt h i| < 2 ^ 60) : within accBound h := by
  intro i hi
  rw [accBound, limbAt_limbsOf _ hi]
  exact (below i hi).le

/-- The chain on bounds, evaluated: it ends within the tight bounds. -/
theorem carryBounds_tight :
    ∀ i ∈ List.range 10, limbAt (carryOrder.foldl (fun b i => carryBound i b) accBound) i ≤ limbBound i := by
  decide +kernel

/-- From limbs below 2^60 the chain gives a tight pattern. -/
theorem tight_carryChain {h : Limbs} (below : ∀ i, i < 10 → |limbAt h i| < 2 ^ 60) : tight (carryChain h) :=
  fun i hi => (within_foldl_carryStep carryOrder carryOrder_lt (within_accBound below) i hi).trans
    (carryBounds_tight i (List.mem_range.mpr hi))

/-- Every bound of the ten is at most 2^61. -/
def smallBounds (b : Limbs) : Bool := (List.range 10).all fun i => decide (limbAt b i ≤ 2 ^ 61)

/-- The bounds are at most 2^61 before and after each step of a list. -/
def smallBoundsAlong : List Nat → Limbs → Bool
  | [], b => smallBounds b
  | i :: rest, b => smallBounds b && smallBoundsAlong rest (carryBound i b)

/-- The chain on bounds, evaluated: no bound along it passes 2^61. -/
theorem smallBoundsAlong_carryOrder : smallBoundsAlong carryOrder accBound = true := by decide +kernel

theorem limb_le_of_smallBounds {b h : Limbs} (hb : within b h) (small : smallBounds b = true) {i : Nat} (hi : i < 10) :
    |limbAt h i| ≤ 2 ^ 61 :=
  (hb i hi).trans (of_decide_eq_true (List.all_eq_true.mp small i (List.mem_range.mpr hi)))

theorem fits64_of_abs_le {v : Int} (h : |v| ≤ 2 ^ 62) : fits64 v := by
  rw [abs_le] at h
  exact ⟨by omega, by omega⟩

theorem fits64_limbs {h : Limbs} (small : ∀ i, i < 10 → |limbAt h i| ≤ 2 ^ 61) :
    ∀ v ∈ (List.range 10).map (limbAt h), fits64 v := by
  simp only [List.forall_mem_map, List.mem_range]
  exact fun i hi => fits64_of_abs_le ((small i hi).trans (by norm_num))

/-- A carry out of a limb of at most 2^61 is below 2^37, and 19 times it below 2^42 (R163). -/
theorem carryOut_carryIn_le {h : Limbs} (small : ∀ i, i < 10 → |limbAt h i| ≤ 2 ^ 61) {i : Nat} (hi : i < 10) :
    |carryOut i h| ≤ 2 ^ 37 ∧ |carryIn i h| ≤ 2 ^ 42 := by
  have limb := abs_le.mp (small i hi)
  have out : |carryOut i h| ≤ 2 ^ 37 := by
    unfold carryOut
    rcases limbWidth_cases i with width | width <;> rw [width, abs_le] <;> omega
  refine ⟨out, ?_⟩
  rw [abs_le] at out ⊢
  unfold carryIn
  split <;> omega

theorem fits64_carryStepValues {h : Limbs} (small : ∀ i, i < 10 → |limbAt h i| ≤ 2 ^ 61) {i : Nat} (hi : i < 10) :
    ∀ v ∈ carryStepValues i h, fits64 v := by
  have limb := abs_le.mp (small i hi)
  have next := abs_le.mp (small _ (carryTarget_lt hi).1)
  obtain ⟨out, into⟩ := carryOut_carryIn_le small hi
  have rest := carryRemainder_le i h
  have half := half_width_bounds i
  rw [abs_le] at out into rest
  rw [carryStepValues_eq]
  simp only [List.forall_mem_cons, fits64]
  refine ⟨?_, ?_, ?_, ?_, ?_, ?_, fun _ h => absurd h List.not_mem_nil⟩ <;> omega

/-- Every value of a run of steps fits 64 bits when the bounds along it are small. -/
theorem fits64_carryValues : ∀ (l : List Nat) {b h : Limbs}, (∀ i ∈ l, i < 10) → within b h →
    smallBoundsAlong l b = true → ∀ v ∈ carryValues l h, fits64 v
  | [], _, _, _, hb, small => fits64_limbs fun _ hi => limb_le_of_smallBounds hb small hi
  | i :: rest, b, h, below, hb, small => by
    rw [List.forall_mem_cons] at below
    rw [smallBoundsAlong, Bool.and_eq_true] at small
    have limbs : ∀ j, j < 10 → |limbAt h j| ≤ 2 ^ 61 := fun _ hj => limb_le_of_smallBounds hb small.1 hj
    intro v hv
    rw [carryValues, List.mem_append, List.mem_append] at hv
    rcases hv with (ofLimbs | ofStep) | later
    · exact fits64_limbs limbs v ofLimbs
    · exact fits64_carryStepValues limbs below.1 v ofStep
    · exact fits64_carryValues rest below.2 (within_carryStep hb below.1) small.2 v later

theorem fits64_carryValues_of_lt {h : Limbs} (below : ∀ i, i < 10 → |limbAt h i| < 2 ^ 60) :
    ∀ v ∈ carryValues carryOrder h, fits64 v :=
  fits64_carryValues carryOrder carryOrder_lt (within_accBound below) smallBoundsAlong_carryOrder

/-! ## Limbs, products, terms and accumulators of tight patterns (R172) -/

section
variable {f g : Limbs} (hf : tight f) (hg : tight g)

include hf in
theorem abs_limbAt_le {i : Nat} (hi : i < 10) : |limbAt f i| ≤ 33889976 := (hf i hi).trans (limbBound_le i)

include hf hg

theorem abs_product_le {i j : Nat} (hi : i < 10) (hj : j < 10) : |limbAt f i * limbAt g j| ≤ 33889976 * 33889976 :=
  (abs_mul_le_of_tight hf hg hi hj).trans
    (mul_le_mul (limbBound_le i) (limbBound_le j) (limbBound_pos j).le (by norm_num))

theorem abs_mulTerm_le_of_tight {i j : Nat} (hi : i < 10) (hj : j < 10) :
    |mulTerm f g i j| ≤ 38 * (33889976 * 33889976) :=
  (abs_mulTerm_le f g i j).trans (mul_le_mul_of_nonneg_left (abs_product_le hf hg hi hj) (by norm_num))

theorem abs_mulPartial_le (k : Nat) {m : Nat} (hm : m ≤ 10) :
    |mulPartial f g k m| ≤ 10 * (38 * (33889976 * 33889976)) := by
  have terms : |mulPartial f g k m| ≤ m • (38 * (33889976 * 33889976)) := by
    calc |mulPartial f g k m|
        = |∑ i ∈ Finset.range m, mulTerm f g i ((k + 10 - i) % 10)| := rfl
      _ ≤ ∑ i ∈ Finset.range m, |mulTerm f g i ((k + 10 - i) % 10)| := Finset.abs_sum_le_sum_abs _ _
      _ ≤ (Finset.range m).card • (38 * (33889976 * 33889976)) := Finset.sum_le_card_nsmul _ _ _ fun i hi =>
          abs_mulTerm_le_of_tight hf hg (by rw [Finset.mem_range] at hi; omega) (Nat.mod_lt _ (by decide))
      _ = m • (38 * (33889976 * 33889976)) := by rw [Finset.card_range]
  refine terms.trans ?_
  rw [nsmul_eq_mul]
  omega

theorem abs_two_mulAcc_le (k : Nat) : |2 * mulAcc f g k| ≤ 20 * (38 * (33889976 * 33889976)) := by
  have acc := abs_mulPartial_le hf hg k le_rfl
  rw [abs_mul, Nat.abs_ofNat, mulAcc]
  omega

end

/-- The sums and differences of `add` and `sub` (R166). -/
theorem abs_add_sub_lt {f g : Limbs} (hf : tight f) (hg : tight g) {i : Nat} (hi : i < 10) :
    100 * |limbAt f i + limbAt g i| < 202 * 2 ^ 25 ∧ 100 * |limbAt f i - limbAt g i| < 202 * 2 ^ 25 := by
  have sum := abs_add_le (limbAt f i) (limbAt g i)
  have difference := abs_sub (limbAt f i) (limbAt g i)
  have left := abs_limbAt_le hf hi
  have right := abs_limbAt_le hg hi
  constructor <;> omega

/-- A term of `mul_small` (R169). -/
theorem abs_mul_small_le {f : Limbs} (hf : tight f) {i k : Nat} (hi : i < 10) (hk : k < 2 ^ 32) :
    |limbAt f i * (k : Int)| ≤ 33889976 * 2 ^ 32 := by
  rw [abs_mul, Nat.abs_cast]
  exact mul_le_mul (abs_limbAt_le hf hi) (by exact_mod_cast hk.le) (by positivity) (by norm_num)

/-! ## Every operation gives a tight pattern (R162) -/

section
variable {f g : Limbs} (hf : tight f) (hg : tight g)

include hf hg in
theorem tight_limbsAdd : tight (limbsAdd f g) := tight_carryChain fun i hi => by
  have sum := (abs_add_sub_lt hf hg hi).1
  rw [limbAt_limbsOf _ hi]
  omega

include hf hg in
theorem tight_limbsSub : tight (limbsSub f g) := tight_carryChain fun i hi => by
  have difference := (abs_add_sub_lt hf hg hi).2
  rw [limbAt_limbsOf _ hi]
  omega

include hf in
theorem tight_limbsNegate : tight (limbsNegate f) := fun i hi => by
  rw [limbsNegate, limbAt_limbsOf _ hi, abs_neg]
  exact hf i hi

include hf hg in
theorem tight_limbsMul : tight (limbsMul f g) := tight_carryChain fun i hi => by
  rw [limbAt_limbsOf _ hi]
  exact (abs_mulPartial_le hf hg i le_rfl).trans_lt (by norm_num)

include hf in
theorem tight_limbsSquareDouble : tight (limbsSquareDouble f) := tight_carryChain fun i hi => by
  rw [limbAt_limbsOf _ hi]
  exact (abs_two_mulAcc_le hf hf i).trans_lt (by norm_num)

include hf in
theorem tight_limbsMulSmall {k : Nat} (hk : k < 2 ^ 32) : tight (limbsMulSmall f k) := tight_carryChain fun i hi => by
  rw [limbAt_limbsOf _ hi]
  exact (abs_mul_small_le hf hi hk).trans_lt (by norm_num)

include hf in
theorem tight_limbsInvert : tight (limbsInvert f) :=
  invertChain_rel (R := fun h _ => tight h) (mulβ := fun _ _ => ()) tight_limbsMul (x := ()) hf

include hf in
theorem tight_limbsPow2523 : tight (limbsPow2523 f) :=
  pow2523Chain_rel (R := fun h _ => tight h) (mulβ := fun _ _ => ()) tight_limbsMul (x := ()) hf

include hf hg in
theorem tight_limbsCswap (bit : Bool) : tight (limbsCswap bit f g).1 ∧ tight (limbsCswap bit f g).2 := by
  rw [limbsCswap_eq hf hg]
  cases bit
  · exact ⟨hf, hg⟩
  · exact ⟨hg, hf⟩

end

theorem abs_limbAt_limbsCut_lt (b : Bytes32) {i : Nat} (hi : i < 10) : |limbAt (limbsCut b) i| < 2 ^ 60 := by
  have digit : b.toNat % 2 ^ 255 / 2 ^ limbShift i % 2 ^ limbWidth i < 2 ^ limbWidth i := Nat.mod_lt _ (by positivity)
  have width : 2 ^ limbWidth i ≤ 2 ^ 26 := by
    unfold limbWidth
    split <;> decide
  rw [limbsCut, limbAt_limbsOf _ hi, Nat.abs_cast]
  exact_mod_cast (digit.trans_le width).trans (by norm_num)

theorem tight_limbsFromBytes (b : Bytes32) : tight (limbsFromBytes b) :=
  tight_carryChain fun _ hi => abs_limbAt_limbsCut_lt b hi

theorem tight_of_range {h : Limbs} (limbs : ∀ i ∈ List.range 10, |limbAt h i| ≤ limbBound i) : tight h :=
  fun i hi => limbs i (List.mem_range.mpr hi)

/-- Settles O59: the chain's bounds from 2^60 on, the products by R162's numbers, and each operation by its own lemma. -/
theorem limbBoundsHold : Obligations.LimbBoundsHold :=
  ⟨tight_of_range (by decide), tight_of_range (by decide),
    fun b => ⟨tight_limbsFromBytes b, fun _ hi => abs_limbAt_limbsCut_lt b hi⟩,
    fun i _ => (half_width_bounds i).2.trans_lt (by norm_num), fun _ below => fits64_carryValues_of_lt below,
    fun _ _ hf hg =>
      ⟨fun _ _ hi hj => ⟨(abs_limbAt_le hf hi).trans_lt (by norm_num),
          belowPow2_of_le (abs_product_le hf hg hi hj) (by decide +kernel),
          belowPow2_of_le (abs_mulTerm_le_of_tight hf hg hi hj) (by decide +kernel)⟩,
        fun k _ _ hm => ⟨belowPow2_of_le (abs_mulPartial_le hf hg k hm) (by decide +kernel),
          (abs_mulPartial_le hf hg k hm).trans_lt (by norm_num)⟩,
        fun k _ => ⟨belowPow2_of_le (abs_two_mulAcc_le hf hg k) (by decide +kernel),
          (abs_two_mulAcc_le hf hg k).trans_lt (by norm_num)⟩,
        fun _ _ hi hk => ⟨belowPow2_of_le (abs_mul_small_le hf hi hk) (by decide +kernel),
          (mul_le_mul_of_nonneg_left (abs_mul_small_le hf hi hk) (by norm_num)).trans_lt (by norm_num)⟩,
        fun _ hi => abs_add_sub_lt hf hg hi,
        tight_limbsAdd hf hg, tight_limbsSub hf hg, tight_limbsNegate hf, tight_limbsMul hf hg, tight_limbsMul hf hf,
        tight_limbsSquareDouble hf, fun _ hk => tight_limbsMulSmall hf hk, tight_limbsInvert hf,
        tight_limbsPow2523 hf, tight_limbsCswap hf hg⟩⟩

end Sys2Proof.Machine
end

section
/-! SUPPORT. The scalar commands (R180 to R183): the integer of a result and of a view, and the completion of each
command, with the obligations O31 and O51 that rest on them.
-/
namespace Sys2Proof.Machine

/-! ## Results as integers mod ℓ (R180) -/

theorem groupOrder_lt_two_pow_256 : groupOrder < 2 ^ 256 := by decide

/-- The remainder mod ℓ fits in the 32 bytes of a result. -/
@[simp] theorem scalarOfNat_toNat (n : Nat) : (scalarOfNat n).toNat = n % groupOrder := by
  have fits : n % groupOrder < 2 ^ 256 := (Nat.mod_lt n (by decide)).trans groupOrder_lt_two_pow_256
  rw [scalarOfNat, BitVec.toNat_ofNat, Nat.mod_eq_of_lt fits]

/-! ## The range and the integer of a view (R22, R91) -/

theorem wFieldOk_of_lt {r : Reg} (inRange : r.toNat < 8) : wFieldOk r = true := decide_eq_true inRange

theorem wFieldOk_of_ge {r : Reg} (above : 8 ≤ r.toNat) : wFieldOk r = false := decide_eq_false (Nat.not_lt.mpr above)

theorem readW_toNat (s : State) (r : Reg) :
    (readW s r).toNat = (readB s (wLow r)).toNat + 2 ^ 256 * (readB s (wHigh r)).toNat := by
  rw [readW, BitVec.toNat_append, ← Nat.shiftLeft_add_eq_or_of_lt (readB s (wLow r)).isLt, Nat.shiftLeft_eq]
  ring

/-! ## The completions (R181 to R183) -/

theorem exec_scReduce {rd : Reg} (inRange : rd.toNat < 8) (s : State) :
    exec (.scReduce rd) s = .next (finish (writeB s (wLow rd) (scReduce (readW s rd)))) :=
  command_legal (i := .scReduce rd) (wFieldOk_of_lt inRange) _ _

theorem exec_scReduce_illegal {rd : Reg} (above : 8 ≤ rd.toNat) (s : State) :
    exec (.scReduce rd) s = .next (takeError s .illegal) :=
  command_illegal (i := .scReduce rd) (wFieldOk_of_ge above) _ _

theorem exec_scMuladd (s : State) (rd ra rb rc : Reg) :
    exec (.scMuladd rd ra rb rc) s =
      .next (finish (writeB s rd (scMuladd (readB s ra) (readB s rb) (readB s rc)))) :=
  command_legal rfl _ _

theorem exec_scCheckLtL (s : State) (ra : Reg) :
    exec (.scCheckLtL ra) s = .next (finish (setT s (decide ((readB s ra).toNat < groupOrder)))) :=
  command_legal rfl _ _

/-- Settles O31: each command by its completion, the written values by their integers mod ℓ. -/
theorem scalarCommands : Obligations.ScalarCommands := by
  intro s rd ra rb rc
  refine ⟨fun inRange => ?reduce, fun above => exec_scReduce_illegal above s,
    ⟨_, scalarOfNat_toNat _, exec_scMuladd s rd ra rb rc⟩, exec_scCheckLtL s ra⟩
  case reduce =>
    have legal := wFieldOk_of_lt inRange
    refine ⟨scReduce (readW s rd), wLow rd, wHigh rd, wLow_toNat legal, wHigh_toNat legal, ?_, exec_scReduce inRange s⟩
    rw [scReduce, scalarOfNat_toNat, readW_toNat]

/-! ## Reducing a reduced scalar (R181, the spec's inference R185) -/

/-- A view below ℓ has a zero high half, so its remainder mod ℓ is its low half. -/
theorem scReduce_readW_of_lt {s : State} {r : Reg} (reduced : (readW s r).toNat < groupOrder) :
    scReduce (readW s r) = readB s (wLow r) := by
  apply BitVec.eq_of_toNat_eq
  rw [scReduce, scalarOfNat_toNat, Nat.mod_eq_of_lt reduced]
  have below := reduced.trans groupOrder_lt_two_pow_256
  rw [readW_toNat] at below ⊢
  omega

/-- Writing back what a register holds changes nothing. -/
@[simp] theorem writeB_readB_self (s : State) (r : Reg) : writeB s r (readB s r) = s := by
  simp only [writeB, readB, Vector.set_getElem_self]

/-- Settles O51: the command writes back the low half of the view. -/
theorem scReduceIdempotent : Obligations.ScReduceIdempotent := by
  intro s rd inRange reduced
  have completes : exec (.scReduce rd) s = .next (finish s) := by
    rw [exec_scReduce inRange, scReduce_readW_of_lt reduced, writeB_readB_self]
  exact ⟨finish s, completes, readB_finish s⟩

end Sys2Proof.Machine
end

section
/-! SUPPORT. The addition law of R195 on the curve: its denominators never vanish and it stays on the curve, so the
points of the curve are a commutative group and `affineMulInt` is its multiple; with the obligation O52.
-/
namespace Sys2Proof.Machine
open scoped Fin.CommRing

/-! ## Completeness (R195, R211) -/

/-- d is no quotient of two squares. -/
theorem eq_zero_of_mul_self_eq_constD_mul {a b : Fe} (h : a * a = constD * (b * b)) : b = 0 := by
  by_contra nonzero
  have inverse := fe_invert_mul nonzero
  generalize b ^ (prime25519 - 2) = i at inverse
  exact constD_not_square (a * i) (by linear_combination i * i * h + constD * (i * b + 1) * inverse)

/-- The key identity of completeness, for a square root i of −1: with e = d·x1·x2·y1·y2 and e² = 1, the square of
i·x1 + e·y1 is d times a square. -/
theorem law_product_square {a b : Affine} (ha : onCurve a) (hb : onCurve b) {i e : Fe} (hi : i * i = -1)
    (he : e = constD * a.x * b.x * a.y * b.y) (unit : e * e = 1) :
    (i * a.x + e * a.y) * (i * a.x + e * a.y) =
      constD * (a.x * a.y * (i * b.x + b.y) * (a.x * a.y * (i * b.x + b.y))) := by
  unfold onCurve at ha hb
  linear_combination ha + (a.x * a.x - constD * (a.x * a.y * b.x) * (a.x * a.y * b.x)) * hi + (a.y * a.y - 1) * unit
    - constD * (a.x * a.y) * (a.x * a.y) * hb
    + (2 * i * a.x * a.y + e + constD * a.x * b.x * a.y * b.y) * he

/-- d·x1·x2·y1·y2 is neither 1 nor −1: both signs of i in the key identity would give 2 = 0. -/
theorem law_product_mul_self_ne_one {a b : Affine} (ha : onCurve a) (hb : onCurve b) :
    constD * a.x * b.x * a.y * b.y * (constD * a.x * b.x * a.y * b.y) ≠ 1 := by
  intro unit
  have plus := eq_zero_of_mul_self_eq_constD_mul (law_product_square ha hb constSqrtM1_sq rfl unit)
  have minus := eq_zero_of_mul_self_eq_constD_mul
    (law_product_square ha hb (i := -constSqrtM1) (by rw [neg_mul_neg, constSqrtM1_sq]) rfl unit)
  apply two_ne_zero_fe
  linear_combination -2 * unit + constD * b.x * (constD * a.x * b.x * a.y * b.y) * (plus + minus)

/-- The law is defined on the whole curve. -/
theorem lawDefined_of_onCurve {a b : Affine} (ha : onCurve a) (hb : onCurve b) : lawDefined a b := by
  have ne_one := law_product_mul_self_ne_one ha hb
  unfold lawDefined
  generalize constD * a.x * b.x * a.y * b.y = e at *
  exact ⟨fun h => ne_one (by linear_combination (e - 1) * h), fun h => ne_one (by linear_combination (-e - 1) * h)⟩

/-- The sum as a fraction meets the curve equation; the difference lies in the ideal of the two curve equations. -/
theorem onCurve_sum_fraction {d x1 y1 x2 y2 : Fe} (h1 : y1 * y1 - x1 * x1 = 1 + d * (x1 * x1) * (y1 * y1))
    (h2 : y2 * y2 - x2 * x2 = 1 + d * (x2 * x2) * (y2 * y2)) :
    (y1 * y2 + x1 * x2) ^ 2 * (1 + d * x1 * x2 * y1 * y2) ^ 2 -
        (x1 * y2 + x2 * y1) ^ 2 * (1 - d * x1 * x2 * y1 * y2) ^ 2 =
      (1 + d * x1 * x2 * y1 * y2) ^ 2 * (1 - d * x1 * x2 * y1 * y2) ^ 2 +
        d * (x1 * y2 + x2 * y1) ^ 2 * (y1 * y2 + x1 * x2) ^ 2 := by
  linear_combination
    (x1^2 * y1^2 * x2^4 * y2^4 * d^3 - x1^2 * x2^4 * y2^4 * d^2 + y1^2 * x2^4 * y2^4 * d^2 - x2^4 * y2^4 * d^2
      - x1^2 * x2^4 * y2^2 * d + x1^2 * x2^2 * y2^4 * d + y1^2 * x2^4 * y2^2 * d - y1^2 * x2^2 * y2^4 * d
      - 2 * x2^4 * y2^4 * d - 2 * x2^4 * y2^2 + 2 * x2^2 * y2^4 - 2 * x2^2 * y2^2 * d + x2^4
      - 4 * x2^2 * y2^2 + y2^4) * h1 +
    (x1^4 * x2^2 * y2^2 * d + y1^4 * x2^2 * y2^2 * d + 2 * x1^2 * x2^2 * y2^2 * d - 2 * y1^2 * x2^2 * y2^2 * d
      + 2 * x1^2 * x2^2 * y2^2 - 2 * y1^2 * x2^2 * y2^2 + x2^2 * y2^2 * d - x1^2 * x2^2 + x1^2 * y2^2
      + y1^2 * x2^2 - y1^2 * y2^2 + 2 * x2^2 * y2^2 - x2^2 + y2^2 + 1) * h2

theorem onCurve_of_affineSum {a b c : Affine} (ha : onCurve a) (hb : onCurve b) (h : affineSum a b c) : onCurve c := by
  obtain ⟨hx, hy⟩ := h
  obtain ⟨plus, minus⟩ := lawDefined_of_onCurve ha hb
  have fraction := onCurve_sum_fraction ha hb
  rw [← hx, ← hy] at fraction
  generalize 1 + constD * a.x * b.x * a.y * b.y = g at *
  generalize 1 - constD * a.x * b.x * a.y * b.y = f at *
  have denominator := fe_mul_ne_zero (fe_mul_ne_zero plus plus) (fe_mul_ne_zero minus minus)
  exact fe_mul_left_cancel denominator (by linear_combination fraction)

section
variable {a b : Affine} (ha : onCurve a) (hb : onCurve b)
include ha hb

theorem affineSum_affineAdd_of_onCurve : affineSum a b (affineAdd a b) :=
  affineSum_affineAdd (lawDefined_of_onCurve ha hb)

theorem onCurve_affineAdd : onCurve (affineAdd a b) :=
  onCurve_of_affineSum ha hb (affineSum_affineAdd_of_onCurve ha hb)

/-- On the curve the law's relation is the graph of its quotients. -/
theorem affineAdd_eq_of_affineSum {c : Affine} (h : affineSum a b c) : affineAdd a b = c :=
  affineSum_unique (lawDefined_of_onCurve ha hb) (affineSum_affineAdd_of_onCurve ha hb) h

end

/-- Settles O52: the denominators by the key identity, the curve equation of the sum by the ideal membership. -/
theorem affineLawIsComplete : Obligations.AffineLawIsComplete := fun _ _ ha hb =>
  ⟨(lawDefined_of_onCurve ha hb).1, (lawDefined_of_onCurve ha hb).2, affineSum_affineAdd_of_onCurve ha hb,
    onCurve_affineAdd ha hb⟩

/-! ## The group of the curve's points -/

/-- A point of the curve. -/
abbrev CurvePoint := { q : Affine // onCurve q }

namespace CurvePoint

/-- The sum of two points by the law of R195. -/
def sum (p q : CurvePoint) : CurvePoint := ⟨affineAdd p.1 q.1, onCurve_affineAdd p.2 q.2⟩

/-- The neutral element (0, 1). -/
def neutral : CurvePoint := ⟨⟨0, 1⟩, onCurve_neutral⟩

/-- The negative of a point. -/
def negative (p : CurvePoint) : CurvePoint := ⟨affineNeg p.1, onCurve_affineNeg p.2⟩

theorem sum_eq_of_affineSum {p q r : CurvePoint} (h : affineSum p.1 q.1 r.1) : sum p q = r :=
  Subtype.ext (affineAdd_eq_of_affineSum p.2 q.2 h)

theorem affineSum_sum (p q : CurvePoint) : affineSum p.1 q.1 (sum p q).1 := affineSum_affineAdd_of_onCurve p.2 q.2

theorem sum_assoc (p q r : CurvePoint) : sum (sum p q) r = sum p (sum q r) :=
  Subtype.ext (affineSum_assoc p.2 q.2 r.2 (lawDefined_of_onCurve p.2 q.2) (lawDefined_of_onCurve q.2 r.2)
    (lawDefined_of_onCurve (sum p q).2 r.2) (lawDefined_of_onCurve p.2 (sum q r).2) (affineSum_sum p q)
    (affineSum_sum q r) (affineSum_sum _ r) (affineSum_sum p _))

theorem sum_comm (p q : CurvePoint) : sum p q = sum q p := sum_eq_of_affineSum (affineSum_comm (affineSum_sum q p))

theorem neutral_sum (p : CurvePoint) : sum neutral p = p := sum_eq_of_affineSum (affineSum_neutral p.1)

theorem negative_sum (p : CurvePoint) : sum (negative p) p = neutral :=
  sum_eq_of_affineSum (affineSum_comm (affineSum_affineNeg p.2))

/-- A sum of two negatives is the negative of the sum. -/
theorem sum_negative (p q : CurvePoint) : sum (negative p) (negative q) = negative (sum p q) := by
  obtain ⟨hx, hy⟩ := affineSum_sum p q
  refine sum_eq_of_affineSum ⟨?_, ?_⟩ <;> simp only [negative, affineNeg]
  · linear_combination -hx
  · linear_combination hy

/-- n·P, as a point of the curve. -/
def multiple (p : CurvePoint) : Nat → CurvePoint
  | 0 => neutral
  | n + 1 => sum (multiple p n) p

theorem coe_multiple (p : CurvePoint) (n : Nat) : (multiple p n).1 = affineMul p.1 n := by
  induction n with
  | zero => rfl
  | succ n ih => exact congrArg (affineAdd · p.1) ih

theorem multiple_negative (p : CurvePoint) (n : Nat) : multiple (negative p) n = negative (multiple p n) := by
  induction n with
  | zero => exact (negative_sum neutral).symm.trans ((sum_comm _ _).trans (neutral_sum _))
  | succ n ih => rw [multiple, ih, sum_negative, multiple]

/-- n·P for an integer n, as a point of the curve. -/
def integerMultiple (n : Int) (p : CurvePoint) : CurvePoint :=
  match n with
  | .ofNat n => multiple p n
  | .negSucc n => multiple (negative p) (n + 1)

theorem coe_integerMultiple (p : CurvePoint) (n : Int) : (integerMultiple n p).1 = affineMulInt p.1 n := by
  cases n with
  | ofNat n => exact coe_multiple p n
  | negSucc n => exact coe_multiple (negative p) (n + 1)

/-- The points of the curve under the law of R195. -/
@[reducible] def group : AddCommGroup CurvePoint where
  add := sum
  add_assoc := sum_assoc
  zero := neutral
  zero_add := neutral_sum
  add_zero p := (sum_comm p neutral).trans (neutral_sum p)
  nsmul n p := multiple p n
  nsmul_zero _ := rfl
  nsmul_succ _ _ := rfl
  neg := negative
  zsmul := integerMultiple
  zsmul_zero' _ := rfl
  zsmul_succ' _ _ := rfl
  zsmul_neg' n p := multiple_negative p (n + 1)
  neg_add_cancel := negative_sum
  add_comm := sum_comm

end CurvePoint

/-! ## Multiples of a point of the curve (R195) -/

section
variable {q : Affine} (hq : onCurve q)
include hq

theorem onCurve_affineMulInt (n : Int) : onCurve (affineMulInt q n) :=
  CurvePoint.coe_integerMultiple ⟨q, hq⟩ n ▸ (CurvePoint.integerMultiple n ⟨q, hq⟩).2

theorem affineMulInt_add (m n : Int) : affineAdd (affineMulInt q m) (affineMulInt q n) = affineMulInt q (m + n) := by
  let _ := CurvePoint.group
  have sum := congrArg Subtype.val (add_zsmul (⟨q, hq⟩ : CurvePoint) m n)
  simp only [← CurvePoint.coe_integerMultiple ⟨q, hq⟩]
  exact sum.symm

theorem affineNeg_affineMulInt (n : Int) : affineNeg (affineMulInt q n) = affineMulInt q (-n) := by
  let _ := CurvePoint.group
  have negative := congrArg Subtype.val (neg_zsmul (⟨q, hq⟩ : CurvePoint) n)
  simp only [← CurvePoint.coe_integerMultiple ⟨q, hq⟩]
  exact negative.symm

theorem neutral_affineAdd : affineAdd ⟨0, 1⟩ q = q :=
  affineAdd_eq_of_affineSum onCurve_neutral hq (affineSum_neutral q)

theorem affineAdd_neutral : affineAdd q ⟨0, 1⟩ = q :=
  affineAdd_eq_of_affineSum hq onCurve_neutral (affineSum_comm (affineSum_neutral q))

theorem affineMulInt_one : affineMulInt q 1 = q := neutral_affineAdd hq

end

@[simp] theorem affineMulInt_zero (q : Affine) : affineMulInt q 0 = ⟨0, 1⟩ := rfl

/-- m·P + n·Q. -/
def combination (p q : Affine) (m n : Int) : Affine := affineAdd (affineMulInt p m) (affineMulInt q n)

section
variable {p q : Affine} (hp : onCurve p) (hq : onCurve q)
include hp hq

theorem onCurve_combination (m n : Int) : onCurve (combination p q m n) :=
  onCurve_affineAdd (onCurve_affineMulInt hp m) (onCurve_affineMulInt hq n)

/-- Combinations of two points add coefficient by coefficient. -/
theorem combination_add (m n m' n' : Int) :
    affineAdd (combination p q m n) (combination p q m' n') = combination p q (m + m') (n + n') := by
  let _ := CurvePoint.group
  have regroup := congrArg Subtype.val (add_add_add_comm
    (⟨affineMulInt p m, onCurve_affineMulInt hp m⟩ : CurvePoint) ⟨affineMulInt q n, onCurve_affineMulInt hq n⟩
    ⟨affineMulInt p m', onCurve_affineMulInt hp m'⟩ ⟨affineMulInt q n', onCurve_affineMulInt hq n'⟩)
  exact regroup.trans (congrArg₂ affineAdd (affineMulInt_add hp m m') (affineMulInt_add hq n n'))

end

theorem combination_left {p : Affine} (hp : onCurve p) (q : Affine) (m : Int) :
    combination p q m 0 = affineMulInt p m := affineAdd_neutral (onCurve_affineMulInt hp m)

theorem combination_right (p : Affine) {q : Affine} (hq : onCurve q) (n : Int) :
    combination p q 0 n = affineMulInt q n := neutral_affineAdd (onCurve_affineMulInt hq n)

end Sys2Proof.Machine
end

section
/-! SUPPORT. What the projective formulas stand for (R190 to R205): every addition, subtraction and doubling gives the
two fractions of the law of R195, scaled by a common factor; with the obligation O53, and the valid contents of a point
register as those that represent a point of the curve.
-/
namespace Sys2Proof.Machine
open scoped Fin.CommRing

/-! ## The law as a P1P1 value (R192, R195) -/

/-- The two fractions of the law of R195 at `a`, `b`, as P1P1, scaled by `k`. -/
def lawFractions (k : Fe) (a b : Affine) : P1P1 :=
  ⟨k * (a.x * b.y + b.x * a.y), k * (a.y * b.y + a.x * b.x), k * (1 + constD * a.x * b.x * a.y * b.y),
    k * (1 - constD * a.x * b.x * a.y * b.y)⟩

theorem lawFractions_stands (k : Fe) {a b c : Affine} (h : affineSum a b c) : p1p1Stands (lawFractions k a b) c := by
  obtain ⟨hx, hy⟩ := h
  simp only [p1p1Stands, lawFractions]
  exact ⟨by linear_combination -k * hx, by linear_combination -k * hy⟩

theorem lawFractions_represents {k : Fe} {a b : Affine} (hk : k ≠ 0) (ha : onCurve a) (hb : onCurve b) :
    p1p1Represents (lawFractions k a b) (affineAdd a b) :=
  ⟨fe_mul_ne_zero hk (lawDefined_of_onCurve ha hb).1, fe_mul_ne_zero hk (lawDefined_of_onCurve ha hb).2,
    lawFractions_stands k (affineSum_affineAdd_of_onCurve ha hb)⟩

/-! ## Additions and subtractions (R201 to R204) -/

section
variable {u : P3} {v : Cached} {a b : Affine}

theorem geAdd_eq_lawFractions (hu : p3Stands u a) (hv : cachedStands v b) :
    geAdd u v = lawFractions (2 * (u.z * v.z)) a b := by
  obtain ⟨ux, uy, ut⟩ := hu
  obtain ⟨vp, vm, vt⟩ := hv
  simp only [geAdd, lawFractions, ux, uy, ut, vp, vm, vt, constD2_eq, P1P1.mk.injEq]
  refine ⟨?_, ?_, ?_, ?_⟩ <;> ring

theorem geAdd_represents (ha : onCurve a) (hb : onCurve b) (hu : p3Represents u a) (hv : cachedRepresents v b) :
    p1p1Represents (geAdd u v) (affineAdd a b) := by
  rw [geAdd_eq_lawFractions hu.2 hv.2]
  exact lawFractions_represents (fe_mul_ne_zero two_ne_zero_fe (fe_mul_ne_zero hu.1 hv.1)) ha hb

/-- The Cached value of the negative point (R202). -/
def cachedNegate (v : Cached) : Cached := ⟨v.yMinusX, v.yPlusX, v.z, -v.t2d⟩

theorem cachedNegate_stands (hv : cachedStands v b) : cachedStands (cachedNegate v) (affineNeg b) := by
  obtain ⟨vp, vm, vt⟩ := hv
  simp only [cachedStands, cachedNegate, affineNeg, vp, vm, vt]
  refine ⟨?_, ?_, ?_⟩ <;> ring

theorem cachedNegate_represents (hv : cachedRepresents v b) : cachedRepresents (cachedNegate v) (affineNeg b) :=
  ⟨hv.1, cachedNegate_stands hv.2⟩

/-- A subtraction is the addition of the negative (R202). -/
theorem geSub_eq_geAdd (u : P3) (v : Cached) : geSub u v = geAdd u (cachedNegate v) := by
  simp only [geSub, geAdd, cachedNegate, neg_mul, sub_neg_eq_add, ← sub_eq_add_neg]

theorem geSub_represents (ha : onCurve a) (hb : onCurve b) (hu : p3Represents u a) (hv : cachedRepresents v b) :
    p1p1Represents (geSub u v) (affineAdd a (affineNeg b)) :=
  geSub_eq_geAdd u v ▸ geAdd_represents ha (onCurve_affineNeg hb) hu (cachedNegate_represents hv)

/-- A Precomp value is a Cached one with Z = 1 (R194, R203). -/
def precompToCached (c : Precomp) : Cached := ⟨c.yPlusX, c.yMinusX, 1, c.xy2d⟩

theorem one_ne_zero_fe : (1 : Fe) ≠ 0 := by decide +kernel

theorem precompToCached_represents (b : Affine) : cachedRepresents (precompToCached (precompOf b)) b := by
  refine ⟨one_ne_zero_fe, ?_⟩
  simp only [cachedStands, precompToCached, precompOf, mul_one, and_self]

theorem geMadd_eq_geAdd (u : P3) (c : Precomp) : geMadd u c = geAdd u (precompToCached c) := by
  simp only [geMadd, geAdd, precompToCached, mul_one]

theorem geMsub_eq_geSub (u : P3) (c : Precomp) : geMsub u c = geSub u (precompToCached c) := by
  simp only [geMsub, geSub, precompToCached, mul_one]

theorem geMadd_represents (ha : onCurve a) (hb : onCurve b) (hu : p3Represents u a) :
    p1p1Represents (geMadd u (precompOf b)) (affineAdd a b) :=
  geMadd_eq_geAdd u _ ▸ geAdd_represents ha hb hu (precompToCached_represents b)

theorem geMsub_represents (ha : onCurve a) (hb : onCurve b) (hu : p3Represents u a) :
    p1p1Represents (geMsub u (precompOf b)) (affineAdd a (affineNeg b)) :=
  geMsub_eq_geSub u _ ▸ geSub_represents ha hb hu (precompToCached_represents b)

end

/-! ## Doublings (R205, R209) -/

theorem p2Dbl_eq_lawFractions {v : P2} {a : Affine} (ha : onCurve a) (hv : p2Stands v a) :
    p2Dbl v = lawFractions (v.z * v.z) a a := by
  obtain ⟨vx, vy⟩ := hv
  unfold onCurve at ha
  simp only [p2Dbl_eq, lawFractions, vx, vy, P1P1.mk.injEq]
  exact ⟨by ring, by ring, by linear_combination v.z * v.z * ha, by linear_combination -(v.z * v.z) * ha⟩

theorem p2Dbl_represents {v : P2} {a : Affine} (ha : onCurve a) (hv : p2Represents v a) :
    p1p1Represents (p2Dbl v) (affineAdd a a) :=
  p2Dbl_eq_lawFractions ha hv.2 ▸ lawFractions_represents (fe_mul_ne_zero hv.1 hv.1) ha ha

/-! ## Conversions (R197 to R200) -/

theorem p3ToP2_stands {v : P3} {a : Affine} (hv : p3Stands v a) : p2Stands (p3ToP2 v) a := ⟨hv.1, hv.2.1⟩

theorem p3ToP2_represents {v : P3} {a : Affine} (hv : p3Represents v a) : p2Represents (p3ToP2 v) a :=
  ⟨hv.1, p3ToP2_stands hv.2⟩

theorem p3Dbl_represents {v : P3} {a : Affine} (ha : onCurve a) (hv : p3Represents v a) :
    p1p1Represents (p3Dbl v) (affineAdd a a) := p2Dbl_represents ha (p3ToP2_represents hv)

theorem p3ToCached_stands {v : P3} {a : Affine} (hv : p3Stands v a) : cachedStands (p3ToCached v) a := by
  obtain ⟨vx, vy, vt⟩ := hv
  simp only [cachedStands, p3ToCached, vx, vy, vt]
  refine ⟨?_, ?_, ?_⟩ <;> ring

theorem p3ToCached_represents {v : P3} {a : Affine} (hv : p3Represents v a) : cachedRepresents (p3ToCached v) a :=
  ⟨hv.1, p3ToCached_stands hv.2⟩

section
variable {v : P1P1} {a : Affine}

theorem p1p1ToP2_stands (hv : p1p1Stands v a) : p2Stands (p1p1ToP2 v) a := by
  obtain ⟨vx, vy⟩ := hv
  simp only [p2Stands, p1p1ToP2, vx, vy]
  exact ⟨by ring, by ring⟩

theorem p1p1ToP3_stands (hv : p1p1Stands v a) : p3Stands (p1p1ToP3 v) a := by
  obtain ⟨vx, vy⟩ := hv
  simp only [p3Stands, p1p1ToP3, vx, vy]
  exact ⟨by ring, by ring, by ring⟩

theorem p1p1ToP2_represents (hv : p1p1Represents v a) : p2Represents (p1p1ToP2 v) a := by
  obtain ⟨hz, ht, stands⟩ := hv
  exact ⟨fe_mul_ne_zero hz ht, p1p1ToP2_stands stands⟩

theorem p1p1ToP3_represents (hv : p1p1Represents v a) : p3Represents (p1p1ToP3 v) a := by
  obtain ⟨hz, ht, stands⟩ := hv
  exact ⟨fe_mul_ne_zero hz ht, p1p1ToP3_stands stands⟩

end

/-- Settles O53: every formula is `lawFractions` at its operands' points, and a subtraction is the addition of the
negative. -/
theorem formulasStandForTheGroupLaw : Obligations.FormulasStandForTheGroupLaw := by
  refine ⟨fun u v a b c hu hv => ⟨fun h => ?add, fun h => ?sub⟩, fun u a b c hu => ⟨fun h => ?madd, fun h => ?msub⟩,
    fun v w a c ha h => ⟨fun hv => ?p2Dbl, fun hw => ?p3Dbl⟩,
    fun v a hv => ⟨p1p1ToP2_stands hv, p1p1ToP3_stands hv⟩, fun v a hv => ⟨p3ToP2_stands hv, p3ToCached_stands hv⟩,
    fun u v a b ha hb hu => ⟨fun hv => ⟨geAdd_represents ha hb hu hv, geSub_represents ha hb hu hv⟩,
      geMadd_represents ha hb hu, geMsub_represents ha hb hu, p3Dbl_represents ha hu, p3ToP2_represents hu,
      p3ToCached_represents hu⟩,
    fun v a ha hv => p2Dbl_represents ha hv, fun v a hv => ⟨p1p1ToP2_represents hv, p1p1ToP3_represents hv⟩⟩
  case add => exact geAdd_eq_lawFractions hu hv ▸ lawFractions_stands _ h
  case sub => exact geSub_eq_geAdd u v ▸ geAdd_eq_lawFractions hu (cachedNegate_stands hv) ▸ lawFractions_stands _ h
  case madd =>
    rw [geMadd_eq_geAdd, geAdd_eq_lawFractions hu (precompToCached_represents b).2]
    exact lawFractions_stands _ h
  case msub =>
    rw [geMsub_eq_geSub, geSub_eq_geAdd,
      geAdd_eq_lawFractions hu (cachedNegate_stands (precompToCached_represents b).2)]
    exact lawFractions_stands _ h
  case p2Dbl => exact p2Dbl_eq_lawFractions ha hv ▸ lawFractions_stands _ h
  case p3Dbl =>
    rw [p3Dbl, p2Dbl_eq_lawFractions ha (p3ToP2_stands hw)]
    exact lawFractions_stands _ h

/-! ## Valid contents represent points of the curve (R190 to R194, R211) -/

/-- Every fraction with a denominator that is not zero has a value. -/
theorem exists_eq_mul {z : Fe} (hz : z ≠ 0) (n : Fe) : ∃ q, n = q * z :=
  ⟨n * z ^ (prime25519 - 2), by rw [mul_assoc, fe_invert_mul hz, mul_one]⟩

theorem p2Valid_iff {v : P2} : p2Valid v ↔ ∃ q, onCurve q ∧ p2Represents v q := by
  constructor
  · rintro ⟨hz, curve⟩
    obtain ⟨x, hx⟩ := exists_eq_mul hz v.x
    obtain ⟨y, hy⟩ := exists_eq_mul hz v.y
    refine ⟨⟨x, y⟩, ?_, hz, hx, hy⟩
    rw [hx, hy] at curve
    have hz2 := fe_mul_ne_zero hz hz
    exact fe_mul_left_cancel (fe_mul_ne_zero hz2 hz2) (by linear_combination curve)
  · rintro ⟨q, curve, hz, hx, hy⟩
    unfold onCurve at curve
    refine ⟨hz, ?_⟩
    rw [hx, hy]
    linear_combination v.z ^ 4 * curve

theorem p3Valid_iff {v : P3} : p3Valid v ↔ ∃ q, onCurve q ∧ p3Represents v q := by
  constructor
  · rintro ⟨hz, ht, curve⟩
    obtain ⟨x, hx⟩ := exists_eq_mul hz v.x
    obtain ⟨y, hy⟩ := exists_eq_mul hz v.y
    have htz : v.t = x * y * v.z := fe_mul_left_cancel hz (by rw [mul_comm, ht, hx, hy]; ring)
    refine ⟨⟨x, y⟩, ?_, hz, hx, hy, htz⟩
    rw [hx, hy, htz] at curve
    exact fe_mul_left_cancel (fe_mul_ne_zero hz hz) (by linear_combination curve)
  · rintro ⟨q, curve, hz, hx, hy, ht⟩
    unfold onCurve at curve
    refine ⟨hz, ?_, ?_⟩ <;> rw [hx, hy, ht]
    · ring
    · linear_combination v.z ^ 2 * curve

theorem p1p1Valid_iff {v : P1P1} : p1p1Valid v ↔ ∃ q, onCurve q ∧ p1p1Represents v q := by
  constructor
  · rintro ⟨hz, ht, curve⟩
    obtain ⟨x, hx⟩ := exists_eq_mul hz v.x
    obtain ⟨y, hy⟩ := exists_eq_mul ht v.y
    refine ⟨⟨x, y⟩, ?_, hz, ht, hx, hy⟩
    rw [hx, hy] at curve
    exact fe_mul_left_cancel (fe_mul_ne_zero (fe_mul_ne_zero hz hz) (fe_mul_ne_zero ht ht))
      (by linear_combination curve)
  · rintro ⟨q, curve, hz, ht, hx, hy⟩
    unfold onCurve at curve
    refine ⟨hz, ht, ?_⟩
    rw [hx, hy]
    linear_combination v.z ^ 2 * v.t ^ 2 * curve

theorem exists_represents_of_cachedValid {c : Cached} (h : cachedValid c) : ∃ q, onCurve q ∧ cachedRepresents c q := by
  obtain ⟨v, hv, rfl⟩ := h
  obtain ⟨q, hq, represents⟩ := p3Valid_iff.mp hv
  exact ⟨q, hq, p3ToCached_represents represents⟩

end Sys2Proof.Machine
end

section
/-! SUPPORT. The group commands (R196 to R212): what a command does behind the checks of its sources, the integer of an
encoding, and which strings decode; with the obligations O32 to O36.
-/
namespace Sys2Proof.Machine
open scoped Fin.CommRing

/-! ## Commands behind the variant check of their sources (R99, R210) -/

section
variable {α : Type} {i : Instr} {s : State} {rd ra rb : Reg} {need : State → Reg → Except ErrCode α} {a : α}

theorem command_geUnary {op : α → Point} (wf : i.wf = true) (ha : need s ra = .ok a) :
    command i s (geUnary s rd ra need op) = .next (finish (putG s rd (some (op a)))) := by
  rw [command_legal wf, geUnary_ok op ha, complete_ok]

theorem command_geUnary_error {op : α → Point} {e : ErrCode} (wf : i.wf = true) (ha : need s ra = .error e) :
    command i s (geUnary s rd ra need op) = .next (takeError s e) := by
  rw [command_legal wf, geUnary_error op ha, complete_error]

theorem command_geBinary {op : P3 → α → P1P1} {u : P3} (wf : i.wf = true) (hu : readG s ra = some (.p3 u))
    (ha : need s rb = .ok a) :
    command i s (geBinary s rd ra rb need op) = .next (finish (putG s rd (some (.p1p1 (op u a))))) := by
  rw [command_legal wf, geBinary_ok op hu ha, complete_ok]

end

section
variable {rd ra rb : Reg} (hd : rd.toNat < 8) (ha : ra.toNat < 8)
include hd ha

theorem gFieldsOk_of_lt : (gFieldOk rd && gFieldOk ra) = true := by
  rw [gFieldOk_of_lt hd, gFieldOk_of_lt ha, Bool.and_self]

theorem threeGFieldsOk_of_lt (hb : rb.toNat < 8) : (gFieldOk rd && gFieldOk ra && gFieldOk rb) = true := by
  rw [gFieldsOk_of_lt hd ha, gFieldOk_of_lt hb, Bool.and_self]

end

/-- Settles O32: each conversion by its completion behind the variant check. -/
theorem pointConversions : Obligations.PointConversions := by
  intro s rd ra hd
  refine ⟨command_legal (i := .geIdent rd) (gFieldOk_of_lt hd) _ _, fun ha => ?_⟩
  have cached : (Instr.geP3ToCached rd ra).wf = true := gFieldsOk_of_lt hd ha
  have p2 : (Instr.geP3ToP2 rd ra).wf = true := gFieldsOk_of_lt hd ha
  have fractionsP2 : (Instr.geP1p1ToP2 rd ra).wf = true := gFieldsOk_of_lt hd ha
  have fractionsP3 : (Instr.geP1p1ToP3 rd ra).wf = true := gFieldsOk_of_lt hd ha
  refine ⟨fun v hv => ?p3, fun v hv => ?p1p1, fun empty => ?empty⟩
  case p3 => exact ⟨command_geUnary cached (needP3_ok.mpr hv), command_geUnary p2 (needP3_ok.mpr hv)⟩
  case p1p1 =>
    exact ⟨command_geUnary fractionsP2 (needP1P1_ok.mpr hv), command_geUnary fractionsP3 (needP1P1_ok.mpr hv)⟩
  case empty =>
    exact ⟨command_geUnary_error cached (needP3_empty empty), command_geUnary_error p2 (needP3_empty empty),
      command_geUnary_error fractionsP2 (needP1P1_empty empty),
      command_geUnary_error fractionsP3 (needP1P1_empty empty)⟩

/-- The doubling as R205 prints it: X3 = 2·X·Y and B = 2·Z². -/
theorem p2Dbl_eq_double (v : P2) :
    p2Dbl v = ⟨2 * v.x * v.y, v.y * v.y + v.x * v.x, v.y * v.y - v.x * v.x,
      2 * (v.z * v.z) - (v.y * v.y - v.x * v.x)⟩ := by
  rw [p2Dbl_eq, P1P1.mk.injEq]
  exact ⟨by ring, rfl, rfl, by ring⟩

/-- Settles O33: each formula by its completion behind the variant checks, D = Z1·Z2 + Z1·Z2 written as the double. -/
theorem pointAdditionsAndDoublings : Obligations.PointAdditionsAndDoublings := by
  intro s rd ra rb hd ha
  refine ⟨fun u hu hb => ⟨fun v hv => ?cached, fun v hv => ?precomp⟩, fun v hv => ?p2, fun v hv => ?p3⟩
  case cached =>
    simp only [two_mul]
    exact ⟨command_geBinary (i := .geAdd rd ra rb) (threeGFieldsOk_of_lt hd ha hb) hu (needCached_ok.mpr hv),
      command_geBinary (i := .geSub rd ra rb) (threeGFieldsOk_of_lt hd ha hb) hu (needCached_ok.mpr hv)⟩
  case precomp =>
    simp only [two_mul]
    exact ⟨command_geBinary (i := .geMadd rd ra rb) (threeGFieldsOk_of_lt hd ha hb) hu (needPrecomp_ok.mpr hv),
      command_geBinary (i := .geMsub rd ra rb) (threeGFieldsOk_of_lt hd ha hb) hu (needPrecomp_ok.mpr hv)⟩
  case p2 =>
    rw [← p2Dbl_eq_double v]
    exact command_geUnary (i := .geP2Dbl rd ra) (gFieldsOk_of_lt hd ha) (needP2_ok.mpr hv)
  case p3 =>
    have double := p2Dbl_eq_double (p3ToP2 v)
    simp only [p3ToP2] at double
    rw [← double]
    exact command_geUnary (i := .geP3Dbl rd ra) (gFieldsOk_of_lt hd ha) (needP3_ok.mpr hv)

/-- Settles O35: the two destinations of a decode, and the negative in ring terms. -/
theorem decodeCommands : Obligations.DecodeCommands := by
  intro s rd ra hd
  have decode : exec (.geDecode rd ra) s = .next (finish (putDecoded s rd (decodePoint (readB s ra)))) :=
    command_legal (i := .geDecode rd ra) (gFieldOk_of_lt hd) _ _
  have decodeNeg : exec (.geDecodeNeg rd ra) s =
      .next (finish (putDecoded s rd ((decodePoint (readB s ra)).map p3Negate))) :=
    command_legal (i := .geDecodeNeg rd ra) (gFieldOk_of_lt hd) _ _
  refine ⟨fun malformed => ?_, fun v hv => ?_⟩
  · rw [decode, decodeNeg, malformed]
    exact ⟨rfl, rfl⟩
  · rw [decode, decodeNeg, hv, Option.map_some, p3Negate_eq]
    exact ⟨rfl, rfl⟩

/-! ## Compression (R206) -/

/-- Flipping the top bit of a string below 2^255 by a flag adds 2^255 where the flag is set. -/
theorem flip_top_bit_toNat {s : Bytes32} (hs : s.toNat < 2 ^ 255) (flag : Bool) :
    (setByte s 31 (byteAt s 31 ^^^ (if flag then 0x80#8 else 0#8))).toNat = s.toNat + 2 ^ 255 * flag.toNat := by
  have top : s[255] = false := Nat.testBit_lt_two_pow hs
  have mask : ∀ k, k < 8 → (if flag then 0x80#8 else 0#8).getLsbD k = (decide (k = 7) && flag) := by
    revert flag
    decide
  have bits : setByte s 31 (byteAt s 31 ^^^ (if flag then 0x80#8 else 0#8)) =
      BitVec.ofBool flag ++ s.extractLsb' 0 255 := by
    apply BitVec.eq_of_getLsbD_eq
    intro j hj
    rw [setByte_getLsbD _ _ _ _ hj, BitVec.getLsbD_append]
    by_cases hbyte : 8 * 31 ≤ j ∧ j < 8 * 31 + 8
    · rw [if_pos hbyte, BitVec.getLsbD_xor, byteAt_getLsbD _ _ _ (by omega), mask _ (by omega)]
      by_cases hlow : j < 255
      · simp [hlow, show 8 * 31 + (j - 8 * 31) = j by omega, show ¬ j - 8 * 31 = 7 by omega]
      · obtain rfl : j = 255 := by omega
        simp [top]
    · simp [hbyte, show j < 255 by omega]
  have low : (s.extractLsb' 0 255).toNat = s.toNat := by
    rw [BitVec.extractLsb'_toNat, Nat.shiftRight_zero, Nat.mod_eq_of_lt hs]
  rw [bits, BitVec.toNat_append, low, ← Nat.shiftLeft_add_eq_or_of_lt hs, Nat.shiftLeft_eq, BitVec.toNat_ofBool]
  ring

theorem isNeg_toNat (v : Fe) : (isNeg v).toNat = v.val % 2 := by
  unfold isNeg
  rcases Nat.mod_two_eq_zero_or_one v.val with h | h <;> simp [h]

theorem mul_feInvert_val (a z : Fe) : (a * feInvert z).val = a.val * z.val ^ (2 ^ 255 - 21) % prime25519 := by
  rw [fe_mul_val, feInvert_val, Nat.mul_mod_mod]

/-- The integer of an encoding: the affine y, and the parity of the affine x as bit 255. -/
theorem encodePoint_toNat (v : P2) :
    (encodePoint v).toNat = (v.y * feInvert v.z).val + 2 ^ 255 * ((v.x * feInvert v.z).val % 2) := by
  have below : (feEnc (v.y * feInvert v.z)).toNat < 2 ^ 255 := by
    rw [feEnc_toNat]
    exact lt_trans (v.y * feInvert v.z).isLt (by norm_num)
  rw [encodePoint, flip_top_bit_toNat below, feEnc_toNat, isNeg_toNat]

/-- A common factor cancels in an affine coordinate. -/
theorem scaled_mul_feInvert {k : Fe} (hk : k ≠ 0) (a z : Fe) : k * a * feInvert (k * z) = a * feInvert z := by
  have inverse := fe_invert_mul hk
  rw [feInvert_eq, feInvert_eq, mul_pow]
  generalize k ^ (prime25519 - 2) = i at *
  generalize z ^ (prime25519 - 2) = j
  linear_combination a * j * inverse

theorem needXYZ_of_p2 {s : State} {r : Reg} {v : P2} (h : readG s r = some (.p2 v)) : needXYZ s r = .ok v := by
  rw [needXYZ, h]

theorem needXYZ_of_p3 {s : State} {r : Reg} {v : P3} (h : readG s r = some (.p3 v)) :
    needXYZ s r = .ok ⟨v.x, v.y, v.z⟩ := by
  rw [needXYZ, h]

theorem needXYZ_empty {s : State} {r : Reg} (h : readG s r = none) : needXYZ s r = .error .empty := by
  rw [needXYZ, h]

theorem exec_geEncode {s : State} {ra : Reg} {v : P2} (ha : ra.toNat < 8) (hv : needXYZ s ra = .ok v) (rd : Reg) :
    exec (.geEncode rd ra) s = .next (finish (writeB s rd (encodePoint v))) := by
  rw [exec, execGeEncode, command_legal (i := .geEncode rd ra) (gFieldOk_of_lt ha), hv]
  rfl

/-- Settles O34: the completion behind the variant check, the integer of the encoding, and the common factor. -/
theorem encodeCommand : Obligations.EncodeCommand := by
  refine ⟨fun s rd ra x y z ha held => ?encode, fun s rd ra ha empty => ?empty, fun x y z k hk => ?scaled⟩
  case encode =>
    have source : needXYZ s ra = .ok ⟨x, y, z⟩ := by
      obtain hv | ⟨t, hv⟩ := held
      · exact needXYZ_of_p2 hv
      · exact needXYZ_of_p3 hv
    refine ⟨_, exec_geEncode ha source rd, ?_⟩
    rw [encodePoint_toNat, mul_feInvert_val, mul_feInvert_val]
  case empty =>
    rw [exec, execGeEncode, command_legal (i := .geEncode rd ra) (gFieldOk_of_lt ha), needXYZ_empty empty]
    rfl
  case scaled => simp only [encodePoint, scaled_mul_feInvert hk]

/-! ## Decompression (R212) -/

/-- The curve equation solved for x². -/
theorem onCurve_iff {x y : Fe} : onCurve ⟨x, y⟩ ↔ (constD * (y * y) + 1) * (x * x) = y * y - 1 := by
  unfold onCurve
  exact ⟨fun h => by linear_combination -h, fun h => by linear_combination -h⟩

/-- What R212 finds solves v·x² = u: the candidate itself, or the candidate times the square root of −1. -/
theorem mul_square_of_decodeX {u v x : Fe} (h : decodeX u v = some x) : v * (x * x) = u := by
  unfold decodeX at h
  generalize fePow2523 (u * v) * u = r at h
  simp only [feNegate_eq] at h
  split at h
  · obtain rfl := Option.some.inj h
    assumption
  · split at h
    next negative =>
      obtain rfl := Option.some.inj h
      linear_combination v * (r * r) * constSqrtM1_sq - negative
    next => cases h

/-- v times the square of R212's candidate is u times a square root of 1, where v·x² = u has a solution. -/
theorem candidate_square {u v x : Fe} (h : v * (x * x) = u) :
    v * (fePow2523 (u * v) * u * (fePow2523 (u * v) * u)) = u ∨
      v * (fePow2523 (u * v) * u * (fePow2523 (u * v) * u)) = -u := by
  by_cases hvx : v * x = 0
  · have hu : u = 0 := by linear_combination x * hvx - h
    left
    rw [hu]
    ring
  · have root : (u * v) ^ ((prime25519 - 1) / 4) * (u * v) ^ ((prime25519 - 1) / 4) = 1 := by
      rw [← pow_add, ← h, show v * (x * x) * v = (v * x) ^ 2 by ring, ← pow_mul]
      exact fe_pow_prime_sub_one hvx
    have candidate : v * (fePow2523 (u * v) * u * (fePow2523 (u * v) * u)) = (u * v) ^ ((prime25519 - 1) / 4) * u := by
      rw [fePow2523_eq, show (prime25519 - 1) / 4 = (prime25519 - 5) / 8 + (prime25519 - 5) / 8 + 1 by norm_num,
        pow_succ, pow_add]
      ring
    rw [candidate]
    generalize (u * v) ^ ((prime25519 - 1) / 4) = w at root
    obtain hw | hw := fe_mul_eq_zero.mp (show (w - 1) * (w + 1) = 0 by linear_combination root)
    · exact .inl (by linear_combination u * hw)
    · exact .inr (by linear_combination u * hw)

theorem decodeX_eq_none_iff {u v : Fe} : decodeX u v = none ↔ ∀ x, v * (x * x) ≠ u := by
  constructor
  · intro h x hx
    unfold decodeX at h
    obtain square | square := candidate_square hx
    · simp [square] at h
    · simp only [square, feNegate_eq, if_true] at h
      split at h <;> cases h
  · intro h
    cases found : decodeX u v with
    | none => rfl
    | some x => exact absurd (mul_square_of_decodeX found) (h x)

/-- The last adjustment of R212: x or its negative, by the sign bit. -/
def signed (sign : Bool) (x : Fe) : Fe := if isNeg x != sign then feNegate x else x

theorem signed_mul_self (sign : Bool) (x : Fe) : signed sign x * signed sign x = x * x := by
  unfold signed
  split
  · rw [feNegate_eq, neg_mul_neg]
  · rfl

/-- Negating a nonzero value flips its parity, p being odd. -/
theorem feNegate_parity {x : Fe} (hx : x ≠ 0) : (feNegate x).val % 2 = 1 - x.val % 2 := by
  have nonzero : x.val ≠ 0 := fun h => hx (fe_ext h)
  have below := x.isLt
  have odd : prime25519 % 2 = 1 := by decide
  rw [feNegate, feOfNat_val, Nat.mod_eq_of_lt (show prime25519 - x.val < prime25519 by omega)]
  omega

theorem signed_parity {sign : Bool} {x : Fe} (hx : signed sign x ≠ 0) : (signed sign x).val % 2 = sign.toNat := by
  have flipped : ∀ n s : Bool, (n != s) = true → 1 - n.toNat = s.toNat := by decide
  have kept : ∀ n s : Bool, ¬ (n != s) = true → n.toNat = s.toNat := by decide
  unfold signed at *
  split at hx
  next differs =>
    have nonzero : x ≠ 0 := fun h => hx (by rw [h, feNegate_eq, neg_zero])
    rw [if_pos differs, feNegate_parity nonzero, ← isNeg_toNat, flipped _ _ differs]
  next agrees => rw [if_neg agrees, ← isNeg_toNat, kept _ _ agrees]

/-- `decode(s)` as R212's candidate with the sign applied, in extended coordinates. -/
theorem decodePoint_eq (e : Bytes32) :
    decodePoint e = (decodeX (feDec e * feDec e - 1) (constD * (feDec e * feDec e) + 1)).map fun x =>
      ⟨signed (e.getLsbD 255) x, feDec e, 1, signed (e.getLsbD 255) x * feDec e⟩ := by
  unfold decodePoint signed
  dsimp only
  generalize decodeX _ _ = found
  cases found <;> rfl

theorem getLsbD_255_toNat (e : Bytes32) : (e.getLsbD 255).toNat = e.toNat / 2 ^ 255 := by
  have h : e.toNat / 2 ^ 255 < 2 := by have := e.isLt; omega
  rw [BitVec.getLsbD, Nat.testBit_eq_decide_div_mod_eq, Nat.mod_eq_of_lt h]
  generalize e.toNat / 2 ^ 255 = top at h
  interval_cases top <;> rfl

/-- What `decode` finds is a point of the curve with y the string's and the sign bit's parity (R212). -/
theorem decodePoint_some {e : Bytes32} {v : P3} (h : decodePoint e = some v) :
    v.y = feDec e ∧ v.z = 1 ∧ v.t = v.x * v.y ∧ onCurve ⟨v.x, v.y⟩ ∧ (v.x ≠ 0 → v.x.val % 2 = e.toNat / 2 ^ 255) := by
  rw [decodePoint_eq] at h
  obtain ⟨x, hx, rfl⟩ := Option.map_eq_some_iff.mp h
  refine ⟨rfl, rfl, rfl, onCurve_iff.mpr ?_, fun nonzero => (signed_parity nonzero).trans (getLsbD_255_toNat e)⟩
  rw [signed_mul_self, mul_square_of_decodeX hx]

/-- Settles O36: R212's candidate solves the curve equation for x² exactly when that has a solution. -/
theorem decodeFindsExactlyThePoints : Obligations.DecodeFindsExactlyThePoints := by
  refine fun e => ⟨fun v hv => ?found, ?none⟩
  case found =>
    obtain ⟨hy, hz, ht, curve, parity⟩ := decodePoint_some hv
    exact ⟨by rw [hy, feDec_val], hz, ht, curve, parity⟩
  case none =>
    rw [decodePoint_eq, Option.map_eq_none_iff, decodeX_eq_none_iff]
    exact forall_congr' fun x => not_congr onCurve_iff.symm

end Sys2Proof.Machine
end

section
/-! SUPPORT. The two table ROMs (R220, R221): every entry is the Precomp form of the multiple of B its law names,
checked entry by entry against the sum of R195 and row by row by five doublings; and the multiple that `select` gives.
-/
namespace Sys2Proof.Machine
open scoped Fin.CommRing

/-! ## The point behind an entry (R194) -/

/-- The inverse of 2. -/
def feHalf : Fe := feOfNat ((prime25519 + 1) / 2)

/-- The affine point an entry is the Precomp form of (R194). -/
def entryPoint (c : Precomp) : Affine := ⟨feHalf * (c.yPlusX - c.yMinusX), feHalf * (c.yPlusX + c.yMinusX)⟩

/-- One doubling in projective coordinates (R199, R205). -/
def doubleP2 (v : P2) : P2 := p1p1ToP2 (p2Dbl v)

/-! ## The laws of the tables on the points behind their entries, by evaluation (R220, R221) -/

theorem precompOf_entryPoint_baseEntry :
    ∀ pos, pos < 32 → ∀ j, j < 8 → precompOf (entryPoint (baseEntry pos j)) = baseEntry pos j := by decide +kernel

theorem affineSum_entryPoint_baseEntry : ∀ pos, pos < 32 → ∀ j, j < 7 →
    affineSum (entryPoint (baseEntry pos j)) (entryPoint (baseEntry pos 0)) (entryPoint (baseEntry pos (j + 1))) := by
  unfold affineSum
  decide +kernel

theorem p2Stands_doubleP2_baseEntry : ∀ pos, pos < 31 →
    p2Stands (doubleP2^[5] ⟨(entryPoint (baseEntry pos 7)).x, (entryPoint (baseEntry pos 7)).y, 1⟩)
      (entryPoint (baseEntry (pos + 1) 0)) := by
  unfold p2Stands
  decide +kernel

theorem entryPoint_baseEntry_zero : entryPoint (baseEntry 0 0) = basePoint := by decide +kernel

theorem precompOf_entryPoint_biEntry : ∀ j, j < 8 → precompOf (entryPoint (biEntry j)) = biEntry j := by decide +kernel

theorem affineSum_entryPoint_biEntry : ∀ j, j < 7 →
    affineSum (entryPoint (biEntry j)) (entryPoint (baseEntry 0 1)) (entryPoint (biEntry (j + 1))) := by
  unfold affineSum
  decide +kernel

theorem entryPoint_biEntry_zero : entryPoint (biEntry 0) = basePoint := by decide +kernel

/-! ## Doublings of a multiple -/

section
variable {q : Affine} (hq : onCurve q) {n : Int}
include hq

theorem p2Dbl_represents_multiple {v : P2} (hv : p2Represents v (affineMulInt q n)) :
    p1p1Represents (p2Dbl v) (affineMulInt q (2 * n)) := by
  rw [two_mul, ← affineMulInt_add hq]
  exact p2Dbl_represents (onCurve_affineMulInt hq n) hv

theorem doubleP2_represents {v : P2} (hv : p2Represents v (affineMulInt q n)) :
    p2Represents (doubleP2 v) (affineMulInt q (2 * n)) := p1p1ToP2_represents (p2Dbl_represents_multiple hq hv)

theorem iterate_doubleP2_represents {v : P2} (hv : p2Represents v (affineMulInt q n)) (k : Nat) :
    p2Represents (doubleP2^[k] v) (affineMulInt q (2 ^ k * n)) := by
  induction k with
  | zero => simpa using hv
  | succ k ih =>
    rw [Function.iterate_succ_apply', pow_succ', mul_assoc]
    exact doubleP2_represents hq ih

end

theorem p2Represents_affine (q : Affine) : p2Represents ⟨q.x, q.y, 1⟩ q :=
  ⟨one_ne_zero_fe, (mul_one _).symm, (mul_one _).symm⟩

/-- A projective value stands for one point only. -/
theorem eq_of_p2Stands {v : P2} {a b : Affine} (ha : p2Represents v a) (hb : p2Stands v b) : a = b := by
  obtain ⟨hz, hx, hy⟩ := ha
  obtain ⟨hx', hy'⟩ := hb
  obtain ⟨ax, ay⟩ := a
  obtain ⟨bx, byy⟩ := b
  rw [Affine.mk.injEq]
  exact ⟨fe_mul_left_cancel hz (by linear_combination hx' - hx), fe_mul_left_cancel hz (by linear_combination hy' - hy)⟩

/-! ## The entries as multiples of B (R220, R221) -/

/-- A row of `BASE` from its first entry: each entry is the one before it plus the first. -/
theorem entryPoint_baseRow {pos : Nat} (hpos : pos < 32)
    (first : entryPoint (baseEntry pos 0) = affineMulInt basePoint (256 ^ pos)) (j : Nat) (hj : j < 8) :
    entryPoint (baseEntry pos j) = affineMulInt basePoint ((j + 1) * 256 ^ pos) := by
  induction j with
  | zero => simpa using first
  | succ j ih =>
    have sum := affineSum_entryPoint_baseEntry pos hpos j (by omega)
    rw [ih (by omega), first] at sum
    rw [← affineAdd_eq_of_affineSum (onCurve_affineMulInt Tests.onCurve_basePoint _)
      (onCurve_affineMulInt Tests.onCurve_basePoint _) sum, affineMulInt_add Tests.onCurve_basePoint]
    push_cast
    ring_nf

/-- The first entry of a row: five doublings of the last entry of the row before (32 · 8 = 256). -/
theorem entryPoint_baseEntry_first (pos : Nat) (hpos : pos < 32) :
    entryPoint (baseEntry pos 0) = affineMulInt basePoint (256 ^ pos) := by
  induction pos with
  | zero => rw [entryPoint_baseEntry_zero, pow_zero, affineMulInt_one Tests.onCurve_basePoint]
  | succ pos ih =>
    have last := entryPoint_baseRow (by omega) (ih (by omega)) 7 (by norm_num)
    have stands := p2Stands_doubleP2_baseEntry pos (by omega)
    rw [last] at stands
    have doubled (n : Int) :=
      iterate_doubleP2_represents Tests.onCurve_basePoint (p2Represents_affine (affineMulInt basePoint n)) 5
    rw [← eq_of_p2Stands (doubled _) stands]
    push_cast
    ring_nf

theorem baseEntry_eq {pos j : Nat} (hpos : pos < 32) (hj : j < 8) :
    baseEntry pos j = precompOf (affineMulInt basePoint ((j + 1) * 256 ^ pos)) := by
  rw [← entryPoint_baseRow hpos (entryPoint_baseEntry_first pos hpos) j hj,
    precompOf_entryPoint_baseEntry pos hpos j hj]

theorem entryPoint_biEntry (j : Nat) (hj : j < 8) :
    entryPoint (biEntry j) = affineMulInt basePoint (2 * j + 1) := by
  induction j with
  | zero => rw [entryPoint_biEntry_zero]; exact (affineMulInt_one Tests.onCurve_basePoint).symm
  | succ j ih =>
    have double := entryPoint_baseRow (by norm_num) (entryPoint_baseEntry_first 0 (by norm_num)) 1 (by norm_num)
    have sum := affineSum_entryPoint_biEntry j (by omega)
    rw [ih (by omega), double] at sum
    rw [← affineAdd_eq_of_affineSum (onCurve_affineMulInt Tests.onCurve_basePoint _)
      (onCurve_affineMulInt Tests.onCurve_basePoint _) sum, affineMulInt_add Tests.onCurve_basePoint]
    push_cast
    ring_nf

theorem biEntry_eq {j : Nat} (hj : j < 8) : biEntry j = precompOf (affineMulInt basePoint (2 * j + 1)) := by
  rw [← entryPoint_biEntry j hj, precompOf_entryPoint_biEntry j hj]

/-! ## The selection (R223) -/

theorem cmovPrecomp_eq (t u : Precomp) (b : Bool) : cmovPrecomp t u b = if b then u else t := by
  cases b <;> rfl

/-- The scan of a row keeps the entry whose number matches, or what it began with. -/
theorem scan_eq (row : Nat → Precomp) (t : Precomp) (k m : Nat) :
    (List.range m).foldl (fun t j => cmovPrecomp t (row j) (decide (k = j + 1))) t =
      if 1 ≤ k ∧ k ≤ m then row (k - 1) else t := by
  induction m with
  | zero => rw [if_neg (by omega)]; rfl
  | succ m ih =>
    rw [List.range_succ, List.foldl_append, ih, List.foldl_cons, List.foldl_nil, cmovPrecomp_eq]
    by_cases last : k = m + 1
    · rw [if_pos (decide_eq_true last), if_pos (by omega), last, Nat.add_sub_cancel]
    · rw [if_neg (by simpa using last)]
      exact if_congr (by omega) rfl rfl

theorem negPrecomp_precompOf (q : Affine) : negPrecomp (precompOf q) = precompOf (affineNeg q) := by
  simp only [negPrecomp, precompOf, affineNeg, feNegate_eq, Precomp.mk.injEq]
  exact ⟨by ring, by ring, by ring⟩

theorem neutralPrecomp_eq : neutralPrecomp = precompOf ⟨0, 1⟩ := by decide +kernel

/-- The digit a row answers for: one beyond its eight entries selects the neutral entry (R223, R227). -/
def rowDigit (d : Int) : Int := if d.natAbs ≤ 8 then d else 0

/-- `select` gives the digit's multiple of 256^pos·B (R220, R223). -/
theorem select_eq {pos : Nat} (hpos : pos < 32) (d : Int) :
    select pos d = precompOf (affineMulInt basePoint (rowDigit d * 256 ^ pos)) := by
  have scanned : (if 1 ≤ d.natAbs ∧ d.natAbs ≤ 8 then baseEntry pos (d.natAbs - 1) else neutralPrecomp) =
      precompOf (affineMulInt basePoint (|rowDigit d| * 256 ^ pos)) := by
    unfold rowDigit
    by_cases inRow : 1 ≤ d.natAbs ∧ d.natAbs ≤ 8
    · rw [if_pos inRow, if_pos inRow.2, baseEntry_eq hpos (by omega), Int.abs_eq_natAbs]
      congr 3
      omega
    · have zero : (if d.natAbs ≤ 8 then d else 0) = 0 := by split <;> omega
      rw [if_neg inRow, zero, abs_zero, zero_mul, affineMulInt_zero, neutralPrecomp_eq]
  unfold select
  dsimp only
  rw [scan_eq, scanned, cmovPrecomp_eq, negPrecomp_precompOf, affineNeg_affineMulInt Tests.onCurve_basePoint, ← neg_mul]
  unfold rowDigit
  by_cases negative : d < 0
  · rw [if_pos (decide_eq_true negative)]
    congr 3
    split
    · rw [abs_of_neg negative, neg_neg]
    · simp
  · rw [if_neg (by simpa using negative)]
    congr 3
    split
    · exact abs_of_nonneg (by omega)
    · simp

end Sys2Proof.Machine
end

section
/-! SUPPORT. Fixed-base multiplication (R222, R226, R227): the range of the digits, and the loop's value as a multiple
of B.
-/
namespace Sys2Proof.Machine
open scoped Fin.CommRing

/-! ## The range of the digits (R222) -/

theorem nibbles_range {a : Bytes32} {e : Int} (h : e ∈ nibbles a) : 0 ≤ e ∧ e ≤ 15 := by
  obtain ⟨i, -, rfl⟩ := List.mem_map.mp h
  omega

theorem nibbles_length (a : Bytes32) : (nibbles a).length = 64 := by rw [nibbles, List.length_map, List.length_range]

/-- Every digit but the last is in −8..7, and the last, which takes its carry whole, is not negative. -/
theorem recodeFrom_range {l : List Int} : ∀ {carry : Int}, (∀ e ∈ l, 0 ≤ e ∧ e ≤ 15) → 0 ≤ carry → carry ≤ 1 → ∀ i,
    (i + 1 < l.length → -8 ≤ (recodeFrom carry l).getD i 0 ∧ (recodeFrom carry l).getD i 0 ≤ 7) ∧
      (i + 1 = l.length → 0 ≤ (recodeFrom carry l).getD i 0) := by
  induction l with
  | nil => exact fun _ _ _ i => ⟨fun h => absurd h (by simp), fun h => absurd h (by simp)⟩
  | cons e rest ih =>
    intro carry digits nonneg le_one i
    have first := digits e List.mem_cons_self
    cases rest with
    | nil =>
      refine ⟨fun h => absurd h (by simp), fun h => ?_⟩
      obtain rfl : i = 0 := by simpa using h
      show 0 ≤ e + carry
      omega
    | cons e' rest =>
      have tail := ih (carry := (e + carry + 8) / 16) (fun d hd => digits d (List.mem_cons_of_mem e hd)) (by omega)
        (by omega)
      cases i with
      | zero =>
        refine ⟨fun _ => ?_, fun h => absurd h (by simp)⟩
        show -8 ≤ e + carry - 16 * ((e + carry + 8) / 16) ∧ e + carry - 16 * ((e + carry + 8) / 16) ≤ 7
        omega
      | succ i => exact ⟨fun h => (tail i).1 (Nat.lt_of_succ_lt_succ h), fun h => (tail i).2 (Nat.succ.inj h)⟩

theorem recode16_range (a : Bytes32) {i : Nat} (hi : i < 63) :
    -8 ≤ (recode16 a).getD i 0 ∧ (recode16 a).getD i 0 ≤ 7 :=
  (recodeFrom_range (fun _ => nibbles_range) le_rfl zero_le_one i).1 (by rw [nibbles_length]; omega)

theorem recode16_last_nonneg (a : Bytes32) : 0 ≤ (recode16 a).getD 63 0 :=
  (recodeFrom_range (fun _ => nibbles_range) le_rfl zero_le_one 63).2 (by rw [nibbles_length])

/-! ## The loop (R226) -/

theorem identP3_represents (q : Affine) : p3Represents identP3 (affineMulInt q 0) :=
  ⟨one_ne_zero_fe, (zero_mul _).symm, (mul_one _).symm, by simp [identP3]⟩

/-- Σ over the positions of `l` of the digit a row answers for, times 256^(i div 2). -/
def rowSum (e : List Int) (l : List Nat) : Int := (l.map fun i => rowDigit (e.getD i 0) * 256 ^ (i / 2)).sum

theorem baseStep_represents (e : List Int) {h : P3} {n : Int} {i : Nat} (hi : i < 64)
    (hh : p3Represents h (affineMulInt basePoint n)) :
    p3Represents (baseStep e h i) (affineMulInt basePoint (n + rowDigit (e.getD i 0) * 256 ^ (i / 2))) := by
  rw [baseStep, select_eq (by omega), ← affineMulInt_add Tests.onCurve_basePoint]
  exact p1p1ToP3_represents (geMadd_represents (onCurve_affineMulInt Tests.onCurve_basePoint _)
    (onCurve_affineMulInt Tests.onCurve_basePoint _) hh)

theorem foldl_baseStep_represents (e : List Int) : ∀ (l : List Nat) {h : P3} {n : Int}, (∀ i ∈ l, i < 64) →
    p3Represents h (affineMulInt basePoint n) →
    p3Represents (l.foldl (baseStep e) h) (affineMulInt basePoint (n + rowSum e l))
  | [], h, n, _, hh => by simpa [rowSum] using hh
  | i :: l, h, n, below, hh => by
    have step := baseStep_represents e (below i List.mem_cons_self) hh
    have rest := foldl_baseStep_represents e l (fun j hj => below j (List.mem_cons_of_mem i hj)) step
    rwa [add_assoc] at rest

theorem timesSixteen_represents {h : P3} {q : Affine} {n : Int} (hq : onCurve q)
    (hh : p3Represents h (affineMulInt q n)) : p3Represents (timesSixteen h) (affineMulInt q (16 * n)) := by
  have fourth := p1p1ToP3_represents (p2Dbl_represents_multiple hq (doubleP2_represents hq (doubleP2_represents hq
    (doubleP2_represents hq (p3ToP2_represents hh)))))
  rw [show 16 * n = 2 * (2 * (2 * (2 * n))) by ring]
  exact fourth

/-- Sixteen times the odd positions and once the even ones is the radix-16 sum. -/
theorem rowSum_odd_even (e : List Int) (m : Nat) :
    16 * rowSum e ((List.range m).map fun k => 2 * k + 1) + rowSum e ((List.range m).map fun k => 2 * k) =
      ((List.range (2 * m)).map fun i => rowDigit (e.getD i 0) * 16 ^ i).sum := by
  unfold rowSum
  simp only [List.map_map]
  induction m with
  | zero => rfl
  | succ m ih =>
    rw [show 2 * (m + 1) = 2 * m + 1 + 1 by ring, List.sum_range_succ, List.sum_range_succ, List.sum_range_succ,
      List.sum_range_succ, ← ih]
    simp only [Function.comp_apply, show (2 * m + 1) / 2 = m by omega, show 2 * m / 2 = m by omega, pow_succ, pow_mul]
    norm_num
    ring

/-- The digits a row answers for are all but a last digit above 8 (R227). -/
theorem sum_rowDigit_recode16 (a : Bytes32) :
    ((List.range 64).map fun i => rowDigit ((recode16 a).getD i 0) * 16 ^ i).sum = baseMultiple a := by
  have low : (List.range 63).map (fun i => rowDigit ((recode16 a).getD i 0) * 16 ^ i) =
      (List.range 63).map fun i => (recode16 a).getD i 0 * 16 ^ i := by
    refine List.map_congr_left fun i hi => ?_
    have range := recode16_range a (List.mem_range.mp hi)
    rw [rowDigit, if_pos (by omega)]
  have last : rowDigit ((recode16 a).getD 63 0) =
      if (recode16 a).getD 63 0 ≤ 8 then (recode16 a).getD 63 0 else 0 := by
    have nonneg := recode16_last_nonneg a
    exact if_congr (by omega) rfl rfl
  rw [List.sum_range_succ, low, last, baseMultiple, digitSum]

/-- R226 computes R227's multiple of B. -/
theorem scalarmultBase_represents (a : Bytes32) :
    p3Represents (scalarmultBase a) (affineMulInt basePoint (baseMultiple a)) := by
  have below {k : Nat} (hk : k ∈ List.range 32) : k < 32 := List.mem_range.mp hk
  have odd := foldl_baseStep_represents (recode16 a) ((List.range 32).map fun k => 2 * k + 1)
    (List.forall_mem_map.mpr fun k hk => by have := below hk; omega) (identP3_represents basePoint)
  have even := foldl_baseStep_represents (recode16 a) ((List.range 32).map fun k => 2 * k)
    (List.forall_mem_map.mpr fun k hk => by have := below hk; omega)
    (timesSixteen_represents Tests.onCurve_basePoint odd)
  rw [zero_add, rowSum_odd_even, sum_rowDigit_recode16] at even
  exact even

end Sys2Proof.Machine
end

section
/-! SUPPORT. Variable-time double-scalar multiplication (R228, R229): the digits of `slide`, the table of odd multiples
and the double-and-add loop as a combination of the two points; with the obligation O39.
-/
namespace Sys2Proof.Machine
open scoped Fin.CommRing

/-! ## The digits of `slide` (R228) -/

/-- A digit of `slide`: 0, or odd in −15..15. -/
def slideDigit (d : Int) : Prop := d = 0 ∨ (d % 2 = 1 ∧ -15 ≤ d ∧ d ≤ 15)

/-- Every entry is 0 or 1: the part of the digits that the loop of R228 has not reached. -/
def areBits (l : List Int) : Prop := ∀ v ∈ l, v = 0 ∨ v = 1

theorem areBits_cons {v : Int} {l : List Int} : areBits (v :: l) ↔ (v = 0 ∨ v = 1) ∧ areBits l := List.forall_mem_cons

theorem areBits_carryFrom {l : List Int} (h : areBits l) : areBits (carryFrom l) := by
  induction l with
  | nil => exact h
  | cons v rest ih =>
    obtain ⟨-, bits⟩ := areBits_cons.mp h
    unfold carryFrom
    split
    · exact areBits_cons.mpr ⟨.inr rfl, bits⟩
    · exact areBits_cons.mpr ⟨.inl rfl, ih bits⟩

theorem length_carryFrom (l : List Int) : (carryFrom l).length = l.length := by
  induction l with
  | nil => rfl
  | cons v rest ih =>
    unfold carryFrom
    split
    · rfl
    · rw [List.length_cons, List.length_cons, ih]

theorem areBits_carryAt : ∀ (n : Nat) {l : List Int}, areBits l → areBits (carryAt n l)
  | 0, _, h => areBits_carryFrom h
  | _ + 1, [], h => h
  | n + 1, _ :: _, h => areBits_cons.mpr ⟨(areBits_cons.mp h).1, areBits_carryAt n (areBits_cons.mp h).2⟩

theorem length_carryAt : ∀ (n : Nat) (l : List Int), (carryAt n l).length = l.length
  | 0, l => length_carryFrom l
  | _ + 1, [] => rfl
  | n + 1, _ :: rest => congrArg (· + 1) (length_carryAt n rest)

/-- What the b-loop of R228 keeps: an odd digit in range, bits in front of it, as many as before. -/
def absorbed (n : Nat) (r : Int × List Int) : Prop :=
  (r.1 % 2 = 1 ∧ -15 ≤ r.1 ∧ r.1 ≤ 15) ∧ areBits r.2 ∧ r.2.length = n

theorem absorbed_absorb : ∀ (fuel b : Nat) {x : Int} {rest : List Int}, 1 ≤ b → absorbed rest.length (x, rest) →
    absorbed rest.length (absorb fuel b x rest)
  | 0, _, _, _, _, h => h
  | fuel + 1, b, x, rest, hb, h => by
    obtain ⟨⟨odd, low, high⟩, bits, -⟩ := h
    simp only at odd low high bits
    have unchanged : absorbed rest.length (x, rest) := ⟨⟨odd, low, high⟩, bits, rfl⟩
    have power : ∃ t : Int, 0 < t ∧ (2 : Int) ^ b = 2 * t :=
      ⟨2 ^ (b - 1), by positivity, by rw [← pow_succ', Nat.sub_add_cancel hb]⟩
    obtain ⟨t, ht, power⟩ := power
    unfold absorb
    split
    next => exact unchanged
    next v hv =>
      have bit := bits v (List.mem_of_getElem? hv)
      rw [power]
      split
      next => exact absorbed_absorb fuel (b + 1) (by omega) unchanged
      next nonzero =>
        obtain rfl : v = 1 := bit.resolve_left nonzero
        split
        next le =>
          have shorter := absorbed_absorb fuel (b + 1) (x := x + 1 * (2 * t)) (rest := rest.set (b - 1) 0) (by omega)
            ⟨⟨by omega, by omega, le⟩, fun w hw => (List.mem_or_eq_of_mem_set hw).elim (bits w) .inl, rfl⟩
          rwa [List.length_set] at shorter
        next =>
          split
          next ge =>
            have carried := absorbed_absorb fuel (b + 1) (x := x - 1 * (2 * t)) (rest := carryAt (b - 1) rest)
              (by omega) ⟨⟨by omega, ge, by omega⟩, areBits_carryAt _ bits, rfl⟩
            rwa [length_carryAt] at carried
          next => exact unchanged

theorem slideFrom_digits : ∀ (fuel : Nat) {l : List Int}, areBits l →
    (∀ d ∈ slideFrom fuel l, slideDigit d) ∧ (slideFrom fuel l).length = l.length
  | 0, l, h => ⟨fun d hd => (h d hd).imp id fun one => by rw [one]; decide, rfl⟩
  | _ + 1, [], _ => ⟨nofun, rfl⟩
  | fuel + 1, x :: rest, h => by
    obtain ⟨bit, bits⟩ := areBits_cons.mp h
    unfold slideFrom
    split
    next zero =>
      obtain ⟨digits, length⟩ := slideFrom_digits fuel bits
      exact ⟨List.forall_mem_cons.mpr ⟨.inl zero, digits⟩, by rw [List.length_cons, List.length_cons, length]⟩
    next nonzero =>
      obtain rfl : x = 1 := bit.resolve_left nonzero
      obtain ⟨first, restBits, restLength⟩ := absorbed_absorb 6 1 (x := 1) le_rfl
        ⟨⟨rfl, by norm_num, by norm_num⟩, bits, rfl⟩
      obtain ⟨digits, length⟩ := slideFrom_digits fuel restBits
      exact ⟨List.forall_mem_cons.mpr ⟨.inr first, digits⟩, by
        rw [List.length_cons, List.length_cons, length, restLength]⟩

theorem areBits_scalarBits (a : Bytes32) : areBits (scalarBits a) := by
  intro v hv
  obtain ⟨i, -, rfl⟩ := List.mem_map.mp hv
  split
  · exact .inr rfl
  · exact .inl rfl

theorem slideDigit_of_mem_slide {a : Bytes32} {d : Int} (h : d ∈ slide a) : slideDigit d :=
  (slideFrom_digits 256 (areBits_scalarBits a)).1 d h

theorem length_slide (a : Bytes32) : (slide a).length = 256 := by
  rw [slide, (slideFrom_digits 256 (areBits_scalarBits a)).2, scalarBits, List.length_map, List.length_range]

/-! ## The table of odd multiples (R229) -/

/-- From one odd multiple of A to the next: the addition of 2·A. -/
def nextOddMultiple (a : P3) (c : Cached) : Cached := p3ToCached (p1p1ToP3 (geAdd (p1p1ToP3 (p3Dbl a)) c))

theorem oddMultiples_getD (a : P3) (c : Cached) {j : Nat} (hj : j < 8) :
    (oddMultiples a).getD j c = (nextOddMultiple a)^[j] (p3ToCached a) := by
  interval_cases j <;> rfl

theorem oddMultiples_represent {a : P3} {q : Affine} (hq : onCurve q) (ha : p3Represents a q) (c : Cached) {j : Nat}
    (hj : j < 8) : cachedRepresents ((oddMultiples a).getD j c) (affineMulInt q (2 * j + 1)) := by
  rw [oddMultiples_getD a c hj]
  clear hj
  have ha1 : p3Represents a (affineMulInt q 1) := (affineMulInt_one hq).symm ▸ ha
  induction j with
  | zero => exact p3ToCached_represents ha1
  | succ j ih =>
    have double := p1p1ToP3_represents (p2Dbl_represents_multiple hq (p3ToP2_represents ha1))
    have sum := geAdd_represents (onCurve_affineMulInt hq _) (onCurve_affineMulInt hq _) double ih
    rw [affineMulInt_add hq] at sum
    rw [Function.iterate_succ_apply', show (2 * ((j + 1 : Nat) : Int) + 1) = 2 * 1 + (2 * j + 1) by push_cast; ring]
    exact p3ToCached_represents (p1p1ToP3_represents sum)

/-! ## One position of the loop (R229) -/

/-- Adding a digit's multiple: nothing for 0, else the odd multiple |d| = 2·(|d| div 2) + 1, with the digit's sign. -/
theorem addDigit_represents {t : P1P1} {a q : Affine} {d : Int} {plus minus : Nat → P1P1} (ha : onCurve a)
    (hq : onCurve q) (hd : slideDigit d) (ht : p1p1Represents t a)
    (hplus : ∀ j, j < 8 → p1p1Represents (plus j) (affineAdd a (affineMulInt q (2 * j + 1))))
    (hminus : ∀ j, j < 8 → p1p1Represents (minus j) (affineAdd a (affineNeg (affineMulInt q (2 * j + 1))))) :
    p1p1Represents (if d > 0 then plus (d.natAbs / 2) else if d < 0 then minus (d.natAbs / 2) else t)
      (affineAdd a (affineMulInt q d)) := by
  obtain rfl | ⟨odd, low, high⟩ := hd
  · rw [if_neg (lt_irrefl 0), if_neg (lt_irrefl 0), affineMulInt_zero, affineAdd_neutral ha]
    exact ht
  · have half : d.natAbs / 2 < 8 := by omega
    by_cases positive : d > 0
    · have digit : 2 * ((d.natAbs / 2 : Nat) : Int) + 1 = d := by omega
      have sum := hplus _ half
      rw [digit] at sum
      rwa [if_pos positive]
    · have digit : -(2 * ((d.natAbs / 2 : Nat) : Int) + 1) = d := by omega
      have difference := hminus _ half
      rw [affineNeg_affineMulInt hq, digit] at difference
      rwa [if_neg positive, if_pos (by omega)]

section
variable {a q : Affine} {t : P1P1} {d : Int} (ha : onCurve a) (hd : slideDigit d) (ht : p1p1Represents t a)
include ha hd ht

theorem addOddMultiple_represents {v : P3} (hq : onCurve q) (hv : p3Represents v q) :
    p1p1Represents (addOddMultiple (oddMultiples v) d t) (affineAdd a (affineMulInt q d)) :=
  addDigit_represents ha hq hd ht
    (plus := fun j => geAdd (p1p1ToP3 t) ((oddMultiples v).getD j neutralCached))
    (minus := fun j => geSub (p1p1ToP3 t) ((oddMultiples v).getD j neutralCached))
    (fun _ hj => geAdd_represents ha (onCurve_affineMulInt hq _) (p1p1ToP3_represents ht)
      (oddMultiples_represent hq hv _ hj))
    (fun _ hj => geSub_represents ha (onCurve_affineMulInt hq _) (p1p1ToP3_represents ht)
      (oddMultiples_represent hq hv _ hj))

theorem addBi_represents : p1p1Represents (addBi d t) (affineAdd a (affineMulInt basePoint d)) :=
  addDigit_represents ha Tests.onCurve_basePoint hd ht
    (plus := fun j => geMadd (p1p1ToP3 t) (biEntry j)) (minus := fun j => geMsub (p1p1ToP3 t) (biEntry j))
    (fun _ hj => biEntry_eq hj ▸ geMadd_represents ha (onCurve_affineMulInt Tests.onCurve_basePoint _)
      (p1p1ToP3_represents ht))
    (fun _ hj => biEntry_eq hj ▸ geMsub_represents ha (onCurve_affineMulInt Tests.onCurve_basePoint _)
      (p1p1ToP3_represents ht))

end

/-! ## The loop (R229) -/

/-- The value of digits in binary, the highest first, on top of `n`. -/
def horner (n : Int) (l : List Int) : Int := l.foldl (fun acc d => 2 * acc + d) n

section
variable {v : P3} {q : Affine} (hq : onCurve q) (hv : p3Represents v q)
include hq hv

theorem doubleScalarStep_represents {r : P2} {m n : Int} {d : Int × Int} (hd : slideDigit d.1 ∧ slideDigit d.2)
    (hr : p2Represents r (combination q basePoint m n)) :
    p2Represents (doubleScalarStep (oddMultiples v) r d)
      (combination q basePoint (2 * m + d.1) (2 * n + d.2)) := by
  have hB := Tests.onCurve_basePoint
  have onCombination := onCurve_combination hq hB
  have doubled := p2Dbl_represents (onCombination m n) hr
  rw [combination_add hq hB, ← two_mul, ← two_mul] at doubled
  have first := addOddMultiple_represents (onCombination _ _) hd.1 doubled hq hv
  rw [← combination_left hq basePoint, combination_add hq hB, add_zero] at first
  have second := addBi_represents (onCombination _ _) hd.2 first
  rw [← combination_right q hB, combination_add hq hB, add_zero] at second
  exact p1p1ToP2_represents second

theorem foldl_doubleScalarStep_represents : ∀ (l : List (Int × Int)) {r : P2} {m n : Int},
    (∀ d ∈ l, slideDigit d.1 ∧ slideDigit d.2) → p2Represents r (combination q basePoint m n) →
    p2Represents (l.foldl (doubleScalarStep (oddMultiples v)) r)
      (combination q basePoint (horner m (l.map Prod.fst)) (horner n (l.map Prod.snd)))
  | [], _, _, _, _, hr => hr
  | d :: l, _, _, _, digits, hr =>
    foldl_doubleScalarStep_represents l (fun e he => digits e (List.mem_cons_of_mem d he))
      (doubleScalarStep_represents hq hv (digits d List.mem_cons_self) hr)

end

/-- Leading zeros do not count. -/
theorem horner_dropWhile {α : Type} (f : α → Int) {p : α → Bool} (zero : ∀ d, p d = true → f d = 0) (l : List α) :
    horner 0 ((l.dropWhile p).map f) = horner 0 (l.map f) := by
  induction l with
  | nil => rfl
  | cons d l ih =>
    rw [List.dropWhile_cons]
    split
    next hp =>
      rw [ih, List.map_cons, zero d hp]
      rfl
    next => rfl

/-- Digits from the highest down give the same value as their sum from the lowest up. -/
theorem horner_reverse (l : List Int) : horner 0 l.reverse = digitSum 2 l.length l := by
  induction l with
  | nil => rfl
  | cons d l ih =>
    have head : horner 0 (d :: l).reverse = 2 * horner 0 l.reverse + d := by
      rw [horner, List.reverse_cons, List.foldl_append]
      rfl
    rw [head, ih, digitSum, digitSum, List.length_cons, List.range_succ_eq_map, List.map_cons, List.sum_cons,
      List.map_map, ← List.sum_map_mul_left]
    simp only [List.getD_cons_zero, pow_zero, mul_one, Function.comp_def, Nat.succ_eq_add_one, List.getD_cons_succ,
      pow_succ]
    rw [add_comm]
    congr 3
    funext i
    ring

theorem neutral_represents_combination {q : Affine} (hq : onCurve q) :
    p2Represents ⟨0, 1, 1⟩ (combination q basePoint 0 0) := by
  rw [combination_left hq]
  exact p3ToP2_represents (identP3_represents q)

/-- R229 computes a'·A + b'·B. -/
theorem doubleScalarmult_represents {v : P3} {q : Affine} (hq : onCurve q) (hv : p3Represents v q) (a b : Bytes32) :
    p2Represents (doubleScalarmult a v b) (combination q basePoint (slideSum a) (slideSum b)) := by
  have digits : ∀ d ∈ ((slide a).zip (slide b)).reverse.dropWhile (fun d => decide (d.1 = 0) && decide (d.2 = 0)),
      slideDigit d.1 ∧ slideDigit d.2 := by
    intro d hd
    obtain ⟨h1, h2⟩ := List.of_mem_zip (List.mem_reverse.mp ((List.dropWhile_suffix _).subset hd))
    exact ⟨slideDigit_of_mem_slide h1, slideDigit_of_mem_slide h2⟩
  have loop := foldl_doubleScalarStep_represents hq hv _ digits (neutral_represents_combination hq)
  have lengths : (slide a).length = (slide b).length := by rw [length_slide, length_slide]
  rw [horner_dropWhile _ (by simp +contextual), horner_dropWhile _ (by simp +contextual), List.map_reverse,
    List.map_reverse, List.map_fst_zip lengths.le, List.map_snd_zip lengths.ge, horner_reverse, horner_reverse,
    length_slide, length_slide] at loop
  exact loop

/-- Settles O39: the completions behind the variant check, and the two loops as multiples. -/
theorem scalarMultCommands : Obligations.ScalarMultCommands := by
  refine ⟨fun s rd ra rb rc hd => ⟨command_legal (i := .geScalarmultBase rd ra) (gFieldOk_of_lt hd) _ _,
    fun hb => ⟨fun v hv => ?complete, fun empty => ?empty⟩⟩, scalarmultBase_represents,
    fun a b v q hq hv => doubleScalarmult_represents hq hv a b⟩
  case complete =>
    rw [exec, execGeDoubleScalarmultVt, command_legal (i := .geDoubleScalarmultVt rd ra rb rc) (gFieldsOk_of_lt hd hb),
      needP3_ok.mpr hv]
    rfl
  case empty =>
    rw [exec, execGeDoubleScalarmultVt, command_legal (i := .geDoubleScalarmultVt rd ra rb rc) (gFieldsOk_of_lt hd hb),
      needP3_empty empty]
    rfl

end Sys2Proof.Machine
end

section
/-! SUPPORT. Valid points are kept (R211): every value a command writes to a point register represents a point of the
curve, and no host access and no reset writes one; with the obligation O55.
-/
namespace Sys2Proof.Machine
open scoped Fin.CommRing

/-! ## The values the commands write (R196 to R229) -/

theorem identP3_valid : p3Valid identP3 := p3Valid_iff.mpr ⟨⟨0, 1⟩, onCurve_neutral, identP3_represents ⟨0, 1⟩⟩

theorem p3ToP2_valid {v : P3} (hv : p3Valid v) : p2Valid (p3ToP2 v) := by
  obtain ⟨q, hq, represents⟩ := p3Valid_iff.mp hv
  exact p2Valid_iff.mpr ⟨q, hq, p3ToP2_represents represents⟩

section
variable {v : P1P1} (hv : p1p1Valid v)
include hv

theorem p1p1ToP2_valid : p2Valid (p1p1ToP2 v) := by
  obtain ⟨q, hq, represents⟩ := p1p1Valid_iff.mp hv
  exact p2Valid_iff.mpr ⟨q, hq, p1p1ToP2_represents represents⟩

theorem p1p1ToP3_valid : p3Valid (p1p1ToP3 v) := by
  obtain ⟨q, hq, represents⟩ := p1p1Valid_iff.mp hv
  exact p3Valid_iff.mpr ⟨q, hq, p1p1ToP3_represents represents⟩

end

theorem p2Dbl_valid {v : P2} (hv : p2Valid v) : p1p1Valid (p2Dbl v) := by
  obtain ⟨q, hq, represents⟩ := p2Valid_iff.mp hv
  exact p1p1Valid_iff.mpr ⟨_, onCurve_affineAdd hq hq, p2Dbl_represents hq represents⟩

section
variable {u : P3} (hu : p3Valid u)
include hu

theorem geAdd_geSub_valid {v : Cached} (hv : cachedValid v) : p1p1Valid (geAdd u v) ∧ p1p1Valid (geSub u v) := by
  obtain ⟨a, ha, ua⟩ := p3Valid_iff.mp hu
  obtain ⟨b, hb, vb⟩ := exists_represents_of_cachedValid hv
  exact ⟨p1p1Valid_iff.mpr ⟨_, onCurve_affineAdd ha hb, geAdd_represents ha hb ua vb⟩,
    p1p1Valid_iff.mpr ⟨_, onCurve_affineAdd ha (onCurve_affineNeg hb), geSub_represents ha hb ua vb⟩⟩

theorem geMadd_geMsub_valid {c : Precomp} (hc : precompValid c) : p1p1Valid (geMadd u c) ∧ p1p1Valid (geMsub u c) := by
  obtain ⟨a, ha, ua⟩ := p3Valid_iff.mp hu
  obtain ⟨b, hb, rfl⟩ := hc
  exact ⟨p1p1Valid_iff.mpr ⟨_, onCurve_affineAdd ha hb, geMadd_represents ha hb ua⟩,
    p1p1Valid_iff.mpr ⟨_, onCurve_affineAdd ha (onCurve_affineNeg hb), geMsub_represents ha hb ua⟩⟩

theorem p3Negate_valid : p3Valid (p3Negate u) := by
  obtain ⟨hz, ht, curve⟩ := hu
  rw [p3Negate_eq]
  exact ⟨hz, by linear_combination -ht, by linear_combination curve⟩

theorem doubleScalarmult_valid (a b : Bytes32) : p2Valid (doubleScalarmult a u b) := by
  obtain ⟨q, hq, represents⟩ := p3Valid_iff.mp hu
  exact p2Valid_iff.mpr ⟨_, onCurve_combination hq Tests.onCurve_basePoint _ _,
    doubleScalarmult_represents hq represents a b⟩

end

theorem decodePoint_valid {e : Bytes32} {v : P3} (h : decodePoint e = some v) : p3Valid v := by
  obtain ⟨-, hz, ht, curve, -⟩ := decodePoint_some h
  exact p3Valid_iff.mpr ⟨⟨v.x, v.y⟩, curve, hz ▸ one_ne_zero_fe, by rw [hz, mul_one], by rw [hz, mul_one],
    by rw [hz, ht, mul_one]⟩

theorem scalarmultBase_valid (a : Bytes32) : p3Valid (scalarmultBase a) :=
  p3Valid_iff.mpr ⟨_, onCurve_affineMulInt Tests.onCurve_basePoint _, scalarmultBase_represents a⟩

theorem select_valid {pos : Nat} (hpos : pos < 32) (d : Int) : precompValid (select pos d) :=
  ⟨_, onCurve_affineMulInt Tests.onCurve_basePoint _, select_eq hpos d⟩

theorem biEntry_valid {j : Nat} (hj : j < 8) : precompValid (biEntry j) :=
  ⟨_, onCurve_affineMulInt Tests.onCurve_basePoint _, biEntry_eq hj⟩

theorem pos_lt_of_needSelectArg {s : State} {arg : Nat × Int} (h : needSelectArg s = .ok arg) : arg.1 < 32 := by
  unfold needSelectArg at h
  split at h
  next ok =>
    obtain rfl := Except.ok.inj h
    simp only [selectArgOk, Bool.and_eq_true, decide_eq_true_eq] at ok
    exact Nat.lt_succ_of_le ok.1.1.2
  next => cases h

theorem index_lt_of_needBiIndex {s : State} {j : Nat} (h : needBiIndex s = .ok j) : j < 8 := by
  unfold needBiIndex at h
  split at h
  next ok =>
    obtain rfl := Except.ok.inj h
    exact Nat.lt_succ_of_le ok
  next => cases h

/-! ## Writes to point registers -/

namespace pointsInv

variable {s t : State} {r : Reg} {pt : Point}

theorem of_g_eq (inv : pointsInv s) (same : t.g = s.g) : pointsInv t := by
  intro r pt h
  exact inv r pt (by rwa [readG, same] at h)

theorem wiped (r : Reg) (inv : pointsInv s) : pointsInv (putG s r none) := by
  intro q pt h
  by_cases same : gIndex q = gIndex r
  · rw [readG_putG_index _ _ _ _ same] at h
    cases h
  · exact inv q pt (by rwa [readG_putG_other _ _ _ _ same] at h)

theorem written (inv : pointsInv s) (valid : pointValid pt) : pointsInv (putG s r (some pt)) := by
  intro q pt' h
  by_cases same : gIndex q = gIndex r
  · rw [readG_putG_index _ _ _ _ same] at h
    exact Option.some.inj h ▸ valid
  · exact inv q pt' (by rwa [readG_putG_other _ _ _ _ same] at h)

theorem decoded {p : Option P3} (inv : pointsInv s) (valid : ∀ v, p = some v → p3Valid v) :
    pointsInv (putDecoded s r p) := by
  cases p with
  | none => exact (inv.wiped r).of_g_eq rfl
  | some v => exact (inv.written (pt := .p3 v) (valid v rfl)).of_g_eq rfl

theorem resetEngine : pointsInv (resetEngine s) := by
  intro r pt h
  cases (readG_reset r).symm.trans h

theorem ite {c : Prop} [Decidable c] (yes : pointsInv s) (no : pointsInv t) : pointsInv (if c then s else t) := by
  split
  · exact yes
  · exact no

end pointsInv

/-! ## Commands -/

/-- Where the effect is no error, it leaves valid points. -/
def EffectKeepsPoints (effect : Except ErrCode State) : Prop := ∀ t, effect = .ok t → pointsInv t

namespace EffectKeepsPoints

variable {α : Type} {s : State} {rd ra rb : Reg} {need : State → Reg → Except ErrCode α}

theorem ok (h : pointsInv s) : EffectKeepsPoints (.ok s) := by
  rintro _ ⟨⟩
  exact h

/-- A check in front of an effect can only turn it into an error. -/
theorem bind {check : Except ErrCode α} {effect : α → Except ErrCode State}
    (h : ∀ a, check = .ok a → EffectKeepsPoints (effect a)) : EffectKeepsPoints (check >>= effect) := by
  cases check with
  | error e => exact nofun
  | ok a => exact h a rfl

theorem geUnary {op : α → Point} (inv : pointsInv s) (valid : ∀ a, need s ra = .ok a → pointValid (op a)) :
    EffectKeepsPoints (geUnary s rd ra need op) :=
  .bind fun a ha => .ok (inv.written (valid a ha))

theorem geBinary {op : P3 → α → P1P1} (inv : pointsInv s)
    (valid : ∀ u a, p3Valid u → need s rb = .ok a → p1p1Valid (op u a)) :
    EffectKeepsPoints (geBinary s rd ra rb need op) :=
  .bind fun u hu => .bind fun a ha => .ok (inv.written (pt := .p1p1 _) (valid u a (inv _ _ (needP3_ok.mp hu)) ha))

end EffectKeepsPoints

theorem pointsInv_of_command {i : Instr} {s t : State} {effect : Except ErrCode State} (inv : pointsInv s)
    (h : command i s effect = .next t) (keeps : EffectKeepsPoints effect) : pointsInv t := by
  obtain ⟨e, rfl⟩ | ⟨s1, hok, -, rfl⟩ := command_cases h
  · exact inv.of_g_eq rfl
  · exact (keeps s1 hok).of_g_eq rfl

/-- The frame of a command that writes no point register. -/
theorem pointsInv_of_no_point_destination {i : Instr} {s t : State} (inv : pointsInv s) (h : exec i s = .next t)
    (noPoint : (writesOf i).g = []) : pointsInv t := by
  intro r pt hr
  rw [(exec_cases h).readG_eq (by rw [noPoint]; nofun)] at hr
  exact inv r pt hr

/-- Every command keeps valid points: a command without a point destination by its frame, the others by the value they
write. -/
theorem pointsInv_exec {i : Instr} {s t : State} (inv : pointsInv s) (h : exec i s = .next t) : pointsInv t := by
  have keep {effect : Except ErrCode State} : command i s effect = .next t → EffectKeepsPoints effect → pointsInv t :=
    pointsInv_of_command inv
  have p2 {r v} (hv : needP2 s r = .ok v) : p2Valid v := inv _ _ (needP2_ok.mp hv)
  have p3 {r v} (hv : needP3 s r = .ok v) : p3Valid v := inv _ _ (needP3_ok.mp hv)
  have p1p1 {r v} (hv : needP1P1 s r = .ok v) : p1p1Valid v := inv _ _ (needP1P1_ok.mp hv)
  have cached {r v} (hv : needCached s r = .ok v) : cachedValid v := inv _ _ (needCached_ok.mp hv)
  have precomp {r v} (hv : needPrecomp s r = .ok v) : precompValid v := inv _ _ (needPrecomp_ok.mp hv)
  cases i
  case wipeAll =>
    obtain ⟨⟩ := h
    intro r pt hr
    cases (readG_wipeAll s r).symm.trans hr
  case geWipe rd => exact keep h (.ok (inv.wiped rd))
  case geIdent => exact keep h (.ok (inv.written (pt := .p3 _) identP3_valid))
  case geP3ToCached => exact keep h (.geUnary inv fun v hv => ⟨v, p3 hv, rfl⟩)
  case geP3ToP2 => exact keep h (.geUnary inv fun _ hv => p3ToP2_valid (p3 hv))
  case geP1p1ToP2 => exact keep h (.geUnary inv fun _ hv => p1p1ToP2_valid (p1p1 hv))
  case geP1p1ToP3 => exact keep h (.geUnary inv fun _ hv => p1p1ToP3_valid (p1p1 hv))
  case geAdd => exact keep h (.geBinary inv fun _ _ hu hv => (geAdd_geSub_valid hu (cached hv)).1)
  case geSub => exact keep h (.geBinary inv fun _ _ hu hv => (geAdd_geSub_valid hu (cached hv)).2)
  case geMadd => exact keep h (.geBinary inv fun _ _ hu hc => (geMadd_geMsub_valid hu (precomp hc)).1)
  case geMsub => exact keep h (.geBinary inv fun _ _ hu hc => (geMadd_geMsub_valid hu (precomp hc)).2)
  case geP2Dbl => exact keep h (.geUnary inv fun _ hv => p2Dbl_valid (p2 hv))
  case geP3Dbl => exact keep h (.geUnary inv fun _ hv => p2Dbl_valid (p3ToP2_valid (p3 hv)))
  case geDecode => exact keep h (.ok (inv.decoded fun _ => decodePoint_valid))
  case geDecodeNeg =>
    refine keep h (.ok (inv.decoded fun w hw => ?_))
    obtain ⟨v, hv, rfl⟩ := Option.map_eq_some_iff.mp hw
    exact p3Negate_valid (decodePoint_valid hv)
  case geSelect =>
    exact keep h (.bind fun _ harg =>
      .ok (inv.written (pt := .precomp _) (select_valid (pos_lt_of_needSelectArg harg) _)))
  case geLoadBi =>
    exact keep h (.bind fun _ hj => .ok (inv.written (pt := .precomp _) (biEntry_valid (index_lt_of_needBiIndex hj))))
  case geScalarmultBase => exact keep h (.ok (inv.written (pt := .p3 _) (scalarmultBase_valid _)))
  case geDoubleScalarmultVt =>
    exact keep h (.bind fun _ hv => .ok (inv.written (pt := .p2 _) (doubleScalarmult_valid (p3 hv) _ _)))
  all_goals exact pointsInv_of_no_point_destination inv h rfl

/-! ## Host accesses and the schedule -/

theorem pointsInv_writeWord32 {s : State} (inv : pointsInv s) (o : Nat) (v : Word) : pointsInv (writeWord32 o s v) := by
  have cmd : pointsInv (writeCmd s v) := .ite (inv.of_g_eq rfl) (inv.of_g_eq rfl)
  have status : pointsInv (writeStatus s v) := inv.of_g_eq (by rw [writeStatus_eq])
  have ctrl : pointsInv (writeCtrl s v) := .ite .resetEngine (inv.of_g_eq rfl)
  have refused : pointsInv (setAccv s) := inv.of_g_eq rfl
  exact .ite cmd <| .ite (.ite refused (inv.of_g_eq rfl)) <| .ite status <| .ite ctrl <|
    .ite (.ite refused (inv.of_g_eq rfl)) <| .ite (.ite refused (inv.of_g_eq rfl)) <|
    .ite (.ite refused (inv.of_g_eq rfl)) refused

theorem pointsInv_busRead {s : State} (inv : pointsInv s) (o : Nat) (w : AccessWidth) : pointsInv (busRead o w s) := by
  have read : RepeatableRead (busRead o w) s := .ite (.readWord32 o s) .refusal
  obtain ⟨v, answer, -⟩ | ⟨refusal, -⟩ := read
  · exact inv.of_g_eq (by rw [answer, respond_g])
  · exact inv.of_g_eq (by rw [refusal]; rfl)

theorem pointsInv_hostStep {a : HostAccess} {s t : State} (inv : pointsInv s) (h : hostStep a s = .next t) :
    pointsInv t := by
  cases a with
  | read o w =>
    obtain ⟨-, rfl⟩ := hostStep_read_next h
    exact pointsInv_busRead inv o w
  | write o w v =>
    unfold hostStep at h
    dsimp only at h
    split at h
    · obtain rfl := Host.Outcome.next.inj h
      exact .ite (pointsInv_writeWord32 inv o v) (inv.of_g_eq rfl)
    · cases h

theorem pointsInv_engineStep {s t : State} (inv : pointsInv s) (h : engineStep s = .next t) : pointsInv t := by
  unfold engineStep at h
  split at h
  · exact Host.Outcome.next.inj h ▸ inv
  · exact Host.Outcome.next.inj h ▸ inv.of_g_eq rfl
  · exact pointsInv_exec inv h

/-- Settles O55: the three events of the schedule, each over the state without its event. -/
theorem validPointsAreKept : Obligations.ValidPointsAreKept := by
  intro s t inv h
  cases agenda : s.agenda with
  | nil =>
    rw [step_of_engineTurn (.inr ⟨agenda, rfl⟩)] at h
    have rested : pointsInv { s with agenda := [] } := inv.of_g_eq rfl
    exact pointsInv_engineStep rested h
  | cons event rest =>
    have rested : pointsInv { s with agenda := rest } := inv.of_g_eq rfl
    cases event with
    | host a => exact pointsInv_hostStep rested (step_of_hostEvent agenda ▸ h)
    | engine => exact pointsInv_engineStep rested (step_of_engineTurn (.inl agenda) ▸ h)
    | hardReset =>
      rw [step_of_hardResetEvent agenda] at h
      exact Host.Outcome.next.inj h ▸ .resetEngine

end Sys2Proof.Machine
end

section
/-! SUPPORT. The table commands and the table's law (R220, R221, R223 to R225): the operands of `GE_SELECT` from the
number in `ARG`, the entry its scan keeps, and the sums between multiples of B; with the obligations O37 and O38.
-/
namespace Sys2Proof.Machine
open scoped Fin.CommRing

/-! ## The operands of `GE_SELECT` (R93, R224) -/

theorem argPos_eq (s : State) : argPos s = s.arg.toNat % 256 := by simp [argPos, byteAt, BitVec.extractLsb'_toNat]

theorem argDigit_eq (s : State) : argDigit s = ((s.arg.toNat / 256 % 256 : Nat) : Int).bmod 256 := by
  simp [argDigit, byteAt, BitVec.toInt_eq_toNat_bmod, BitVec.extractLsb'_toNat, Nat.shiftRight_eq_div_pow]

/-- The digit's byte in two's complement is the digit modulo 256. -/
theorem needSelectArg_ok {s : State} {pos : Nat} {d : Int} (hpos : pos < 32) (hd : d.natAbs ≤ 8)
    (arg : (s.arg.toNat : Int) = pos + 256 * (d % 256)) : needSelectArg s = .ok (pos, d) := by
  have inRange : selectArgOk s = true := by
    simp only [selectArgOk_eq, selectInRange, Bool.and_eq_true, Bool.or_eq_true, decide_eq_true_eq]
    omega
  have position : argPos s = pos := by rw [argPos_eq]; omega
  have digit : argDigit s = d := by rw [argDigit_eq, Int.bmod_def]; omega
  rw [needSelectArg, if_pos inRange, position, digit]

/-- The entry of a digit in −8..8: that of its magnitude, negated for a negative digit (R223). -/
theorem select_eq_entry (pos : Nat) {d : Int} (hd : d.natAbs ≤ 8) :
    select pos d =
      if d < 0 then negPrecomp (baseEntry pos (d.natAbs - 1))
      else if d = 0 then neutralPrecomp else baseEntry pos (d.natAbs - 1) := by
  unfold select
  dsimp only
  rw [scan_eq, cmovPrecomp_eq]
  rcases lt_trichotomy d 0 with negative | rfl | positive
  · rw [if_pos (decide_eq_true negative), if_pos negative, if_pos (by omega)]
  · rfl
  · rw [if_neg (by simpa using positive.le), if_neg positive.le.not_gt, if_neg positive.ne', if_pos (by omega)]

/-! ## The completions (R224, R225) -/

section
variable {s : State} {rd : Reg} (hrd : rd.toNat < 8)
include hrd

theorem exec_geSelect {pos : Nat} {d : Int} (hpos : pos < 32) (hd : d.natAbs ≤ 8)
    (arg : (s.arg.toNat : Int) = pos + 256 * (d % 256)) :
    exec (.geSelect rd) s = .next (finish (putG s rd (some (.precomp (select pos d))))) := by
  rw [exec, execGeSelect, command_legal (i := .geSelect rd) (gFieldOk_of_lt hrd), needSelectArg_ok hpos hd arg]
  rfl

theorem exec_geLoadBi (index : s.arg.toNat ≤ 7) :
    exec (.geLoadBi rd) s = .next (finish (putG s rd (some (.precomp (biEntry s.arg.toNat))))) := by
  rw [exec, execGeLoadBi, command_legal (i := .geLoadBi rd) (gFieldOk_of_lt hrd), needBiIndex, if_pos index]
  rfl

end

/-- Settles O37: the digit of `ARG` is k or −k, and the scan gives that digit's entry. -/
theorem tableCommands : Obligations.TableCommands := by
  refine fun s rd hrd => ⟨fun pos k hpos hk => ⟨fun arg => ?plus, fun nonzero arg => ?minus⟩, exec_geLoadBi hrd⟩
  case plus =>
    rw [exec_geSelect hrd (d := k) hpos (by omega) (by omega), select_eq_entry pos (by omega), if_neg (by omega)]
    simp only [Int.natCast_eq_zero, Int.natAbs_natCast, neutralPrecomp]
  case minus =>
    rw [exec_geSelect hrd (d := -k) hpos (by omega) (by omega), select_eq_entry pos (by omega), if_pos (by omega)]
    simp only [negPrecomp, feNegate_eq, Int.natAbs_neg, Int.natAbs_natCast]

/-! ## The law of the tables (R220, R221) -/

/-- Multiples of B add by the law of R195. -/
theorem affineSum_multiples {m n k : Int} (sum : m + n = k) :
    affineSum (affineMulInt basePoint m) (affineMulInt basePoint n) (affineMulInt basePoint k) := by
  rw [← sum, ← affineMulInt_add Tests.onCurve_basePoint]
  exact affineSum_affineAdd_of_onCurve (onCurve_affineMulInt Tests.onCurve_basePoint m)
    (onCurve_affineMulInt Tests.onCurve_basePoint n)

/-- The multiple of B behind `BASE[pos][j]` (R220). -/
def baseEntryPoint (pos j : Nat) : Affine := affineMulInt basePoint ((j + 1) * 256 ^ pos)

/-- Settles O38: the entries are (2j+1)·B and (j+1)·256^pos·B, and five doublings give
32 · 8 · 256^pos = 256^(pos+1). -/
theorem tableEntriesAreMultiples : Obligations.TableEntriesAreMultiples := by
  refine ⟨fun j hj => ⟨biEntry_eq hj, ?rowZero⟩, baseEntryPoint,
    fun pos j hpos hj => ⟨onCurve_affineMulInt Tests.onCurve_basePoint _, baseEntry_eq hpos hj⟩,
    fun pos j _ _ => affineSum_multiples ?next,
    fun pos _ => ⟨affineMulInt basePoint (16 * 256 ^ pos), affineMulInt basePoint (32 * 256 ^ pos),
      affineMulInt basePoint (64 * 256 ^ pos), affineMulInt basePoint (128 * 256 ^ pos), affineSum_multiples ?d1,
      affineSum_multiples ?d2, affineSum_multiples ?d3, affineSum_multiples ?d4, affineSum_multiples ?d5⟩⟩
  case rowZero =>
    rw [baseEntry_eq (by norm_num) hj, pow_zero, mul_one]
    rfl
  all_goals push_cast; ring

end Sys2Proof.Machine
end

section
/-! SUPPORT. The digits of RECODE16 (R222): the carry loop keeps the radix-16 sum, and the last digit's range follows
from that sum; with the obligation O40.
-/
namespace Sys2Proof.Machine

/-! ## The value of a list of digits -/

/-- The value of a list of digits in radix `b`, the lowest digit first. -/
def radixValue (b : Int) : List Int → Int
  | [] => 0
  | d :: l => d + b * radixValue b l

theorem digitSum_length (b : Int) (l : List Int) : digitSum b l.length l = radixValue b l := by
  induction l with
  | nil => rfl
  | cons d l ih =>
    rw [radixValue, ← ih, digitSum, digitSum, List.length_cons, List.range_succ_eq_map, List.map_cons, List.sum_cons,
      List.map_map, ← List.sum_map_mul_left]
    simp only [List.getD_cons_zero, pow_zero, mul_one, Function.comp_def, Nat.succ_eq_add_one, List.getD_cons_succ,
      pow_succ]
    congr 3
    funext i
    ring

/-- The lowest `n` digits of a number in radix `b`. -/
theorem radixValue_digits (b a n : Nat) :
    radixValue b ((List.range n).map fun i => ((a / b ^ i % b : Nat) : Int)) = (a % b ^ n : Nat) := by
  induction n generalizing a with
  | zero => simp [radixValue, Nat.mod_one]
  | succ n ih =>
    have tail := ih (a / b)
    simp only [Nat.div_div_eq_div_mul, ← pow_succ'] at tail
    rw [List.range_succ_eq_map, List.map_cons, List.map_map, radixValue, pow_zero, Nat.div_one, pow_succ', Nat.mod_mul]
    push_cast
    exact congrArg (fun value : Int => a % b + b * value) (mod_cast tail)

/-! ## The sum of the digits (R222) -/

theorem length_recodeFrom (l : List Int) : ∀ carry : Int, (recodeFrom carry l).length = l.length := by
  induction l with
  | nil => exact fun _ => rfl
  | cons e rest ih =>
    intro carry
    cases rest with
    | nil => rfl
    | cons e' rest => exact congrArg (· + 1) (ih _)

/-- A carry taken out of one digit goes into the next. -/
theorem radixValue_recodeFrom {l : List Int} (nonempty : l ≠ []) :
    ∀ carry : Int, radixValue 16 (recodeFrom carry l) = radixValue 16 l + carry := by
  induction l with
  | nil => exact absurd rfl nonempty
  | cons e rest ih =>
    intro carry
    cases rest with
    | nil => simp only [recodeFrom, radixValue]; ring
    | cons e' rest =>
      rw [recodeFrom, radixValue, radixValue, ih (List.cons_ne_nil e' rest)]
      ring

theorem radixValue_nibbles (a : Bytes32) : radixValue 16 (nibbles a) = a.toNat := by
  rw [← Nat.mod_eq_of_lt (show a.toNat < 16 ^ 64 by omega)]
  exact radixValue_digits 16 a.toNat 64

theorem length_recode16 (a : Bytes32) : (recode16 a).length = 64 := by
  rw [recode16, length_recodeFrom, nibbles_length]

theorem digitSum_recode16 (a : Bytes32) : digitSum 16 64 (recode16 a) = a.toNat := by
  have nonempty : nibbles a ≠ [] := List.ne_nil_of_length_pos (by rw [nibbles_length]; norm_num)
  rw [← length_recode16 a, digitSum_length, recode16, radixValue_recodeFrom nonempty, radixValue_nibbles, add_zero]

/-! ## The last digit (R222) -/

/-- Digits of at least −8 sum to more than −16^n. -/
theorem neg_pow_lt_digitSum (e : List Int) (n : Nat) (low : ∀ i, i < n → -8 ≤ e.getD i 0) :
    -16 ^ n < digitSum 16 n e := by
  induction n with
  | zero => exact neg_one_lt_zero
  | succ n ih =>
    have positive : (0 : Int) < 16 ^ n := by positivity
    have lower := ih fun i hi => low i (by omega)
    have last := mul_le_mul_of_nonneg_right (low n (by omega)) positive.le
    rw [digitSum, List.sum_range_succ, ← digitSum, pow_succ]
    linarith

/-- The digits below it take less than 16^63 from what the last digit stands for. -/
theorem recode16_last_lt (a : Bytes32) : ((recode16 a).getD 63 0 - 1) * 16 ^ 63 < a.toNat := by
  have lower := neg_pow_lt_digitSum (recode16 a) 63 fun i hi => (recode16_range a hi).1
  have total := digitSum_recode16 a
  rw [digitSum, List.sum_range_succ, ← digitSum] at total
  linarith

/-- Settles O40: the carry loop keeps the sum, and the sum bounds the last digit. -/
theorem recodeDigits : Obligations.RecodeDigits := by
  intro a
  have last := recode16_last_lt a
  exact ⟨length_recode16 a, digitSum_recode16 a, fun i => recode16_range a, recode16_last_nonneg a, by omega,
    fun small => by omega⟩

end Sys2Proof.Machine
end

section
/-! SUPPORT. The sum of the digits of `slide` (R228): what the b-loop does to the bits in front of it, position by
position, and the one carry off the end that the scalar can lose; with the obligation O41.
-/
namespace Sys2Proof.Machine

/-! ## Lists of bits -/

theorem radixValue_bits {l : List Int} (bits : areBits l) : 0 ≤ radixValue 2 l ∧ radixValue 2 l < 2 ^ l.length := by
  induction l with
  | nil => exact ⟨le_rfl, one_pos⟩
  | cons v rest ih =>
    obtain ⟨bit, restBits⟩ := areBits_cons.mp bits
    obtain ⟨low, high⟩ := ih restBits
    rw [radixValue, List.length_cons, pow_succ]
    rcases bit with rfl | rfl <;> omega

theorem radixValue_scalarBits (a : Bytes32) : radixValue 2 (scalarBits a) = a.toNat := by
  have digits : scalarBits a = (List.range 256).map fun i => ((a.toNat / 2 ^ i % 2 : Nat) : Int) :=
    List.map_congr_left fun i _ => by
      rw [← Nat.toNat_testBit, BitVec.getLsbD]
      cases a.toNat.testBit i <;> rfl
  rw [digits, ← Nat.cast_ofNat, radixValue_digits, Nat.mod_eq_of_lt a.isLt]

/-- The k-loop adds 1, or loses the carry off the end of a list of ones (R228). -/
theorem radixValue_carryFrom {l : List Int} (bits : areBits l) :
    radixValue 2 (carryFrom l) = radixValue 2 l + 1 ∨
      (radixValue 2 (carryFrom l) = 0 ∧ radixValue 2 l + 1 = 2 ^ l.length) := by
  induction l with
  | nil => exact .inr ⟨rfl, rfl⟩
  | cons v rest ih =>
    obtain ⟨bit, restBits⟩ := areBits_cons.mp bits
    rcases bit with rfl | rfl
    · left
      show 1 + 2 * radixValue 2 rest = 0 + 2 * radixValue 2 rest + 1
      ring
    · have carried : radixValue 2 (carryFrom (1 :: rest)) = 2 * radixValue 2 (carryFrom rest) := zero_add _
      rw [carried, radixValue, List.length_cons, pow_succ]
      rcases ih restBits with kept | ⟨zero, full⟩
      · left; omega
      · right; omega

/-- `k` positions that the b-loop has passed, all 0, and the bits behind them. -/
def passed (k : Nat) (tail : List Int) : List Int := List.replicate k 0 ++ tail

theorem passed_zero (k : Nat) (tail : List Int) : passed k (0 :: tail) = passed (k + 1) tail := by
  rw [passed, passed, List.replicate_succ', List.append_assoc, List.singleton_append]

theorem passed_getElem? (k : Nat) (tail : List Int) : (passed k tail)[k]? = tail[0]? := by
  rw [passed, List.getElem?_append_right (by rw [List.length_replicate]), List.length_replicate, Nat.sub_self]

theorem passed_set (k : Nat) (v w : Int) (tail : List Int) : (passed k (v :: tail)).set k w = passed k (w :: tail) := by
  rw [passed, List.set_append_right _ _ (by rw [List.length_replicate]), List.length_replicate, Nat.sub_self,
    List.set_cons_zero, passed]

theorem carryAt_passed (k : Nat) (tail : List Int) : carryAt k (passed k tail) = passed k (carryFrom tail) := by
  induction k with
  | zero => rfl
  | succ k ih => exact congrArg (0 :: ·) ih

theorem radixValue_passed (k : Nat) (tail : List Int) : radixValue 2 (passed k tail) = 2 ^ k * radixValue 2 tail := by
  induction k with
  | zero => exact (one_mul _).symm
  | succ k ih =>
    show 0 + 2 * radixValue 2 (passed k tail) = _
    rw [ih, pow_succ']
    ring

theorem areBits_passed (k : Nat) {tail : List Int} (bits : areBits tail) : areBits (passed k tail) := fun v hv =>
  (List.mem_append.mp hv).elim (fun zero => .inl (List.eq_of_mem_replicate zero)) (bits v)

/-! ## The b-loop (R228) -/

theorem absorb_passed_nil (fuel k : Nat) (x : Int) : absorb fuel (k + 1) x (passed k []) = (x, passed k []) := by
  cases fuel with
  | zero => rfl
  | succ fuel => rw [absorb, Nat.add_sub_cancel, passed_getElem?]; rfl

/-- A bit that fits into the digit moves into it. -/
theorem absorb_bit (fuel k : Nat) {x v : Int} (tail : List Int) (bit : v = 0 ∨ v = 1)
    (fits : x + v * 2 ^ (k + 1) ≤ 15) :
    absorb (fuel + 1) (k + 1) x (passed k (v :: tail)) =
      absorb fuel (k + 2) (x + v * 2 ^ (k + 1)) (passed (k + 1) tail) := by
  rw [absorb, Nat.add_sub_cancel, passed_getElem?]
  rcases bit with rfl | rfl
  · simp [passed_zero]
  · rw [one_mul] at *
    simp [passed_set, passed_zero, fits]

/-- At the fourth place a bit does not fit: the digit becomes negative and 1 is carried. -/
theorem absorb_carry (fuel : Nat) {x : Int} (tail : List Int) (positive : 0 < x) :
    absorb (fuel + 1) 4 x (passed 3 (1 :: tail)) = absorb fuel 5 (x - 16) (passed 4 (carryFrom tail)) := by
  have carried : carryAt 3 (passed 3 (1 :: tail)) = passed 4 (carryFrom tail) := by
    rw [carryAt_passed, ← passed_zero]
    rfl
  have overflow : ¬ x + 1 * 2 ^ 4 ≤ 15 := by omega
  have inRange : x - 1 * 2 ^ 4 ≥ -15 := by omega
  rw [absorb, passed_getElem?, carried]
  exact (if_neg one_ne_zero).trans ((if_neg overflow).trans (if_pos inRange))

/-- Beyond the fourth place the digit takes no bit: 32 is out of its range. -/
theorem absorb_beyond (fuel : Nat) {b : Nat} {x : Int} {rest : List Int} (hb : 5 ≤ b) (bits : areBits rest)
    (low : -15 ≤ x) (high : x ≤ 15) : absorb fuel b x rest = (x, rest) := by
  induction fuel generalizing b with
  | zero => rfl
  | succ fuel ih =>
    have power : (2 : Int) ^ 5 ≤ 2 ^ b := pow_le_pow_right₀ one_le_two hb
    unfold absorb
    split
    next => rfl
    next v hv =>
      split
      next => exact ih (by omega)
      next nonzero =>
        obtain rfl : v = 1 := (bits v (List.mem_of_getElem? hv)).resolve_left nonzero
        rw [if_neg (by omega), if_neg (by omega)]

/-- What the b-loop gives from the value `n`, with `m` bits in front of the digit: bits of which the next four are
0, and `n` itself unless its carry is lost, which leaves no bit. -/
def windowed (n : Int) (m : Nat) (r : Int × List Int) : Prop :=
  16 ∣ radixValue 2 r.2 ∧
    (r.1 + 2 * radixValue 2 r.2 = n ∨ (4 ≤ m ∧ radixValue 2 r.2 = 0 ∧ r.1 + 2 ^ (m + 1) = n))

/-- The fourth place, where the digit takes the bit or becomes negative. -/
theorem windowed_absorb_four {x v : Int} {tail : List Int} (bits : areBits (v :: tail)) (positive : 0 < x)
    (small : x < 16) :
    windowed (x + 16 * radixValue 2 (v :: tail)) (tail.length + 4) (absorb 3 4 x (passed 3 (v :: tail))) := by
  obtain ⟨bit, tailBits⟩ := areBits_cons.mp bits
  rcases bit with rfl | rfl
  · rw [absorb_bit 2 3 tail (.inl rfl) (by omega),
      absorb_beyond 2 le_rfl (areBits_passed 4 tailBits) (by omega) (by omega)]
    simp only [windowed, radixValue_passed, radixValue]
    omega
  · rw [absorb_carry 2 tail positive,
      absorb_beyond 2 le_rfl (areBits_passed 4 (areBits_carryFrom tailBits)) (by omega) (by omega)]
    simp only [windowed, radixValue_passed, radixValue, pow_succ]
    rcases radixValue_carryFrom tailBits with kept | lost <;> omega

/-- The digit takes the bits of the places before the fourth as they are. -/
theorem windowed_absorb (j k : Nat) {x : Int} {tail : List Int} (places : j + k = 3) (bits : areBits tail)
    (positive : 0 < x) (small : x < 2 ^ (k + 1)) :
    windowed (x + 2 ^ (k + 1) * radixValue 2 tail) (tail.length + k) (absorb (j + 3) (k + 1) x (passed k tail)) := by
  cases tail with
  | nil =>
    rw [absorb_passed_nil]
    simp [windowed, radixValue_passed, radixValue]
  | cons v tail =>
    cases j with
    | zero =>
      obtain rfl : k = 3 := by omega
      have four := windowed_absorb_four bits positive small
      rwa [show tail.length + 4 = (v :: tail).length + 3 from (Nat.succ_add tail.length 3).symm] at four
    | succ j =>
      obtain ⟨bit, tailBits⟩ := areBits_cons.mp bits
      have double : (2 : Int) ^ (k + 2) = 2 * 2 ^ (k + 1) := pow_succ' 2 (k + 1)
      have room : (2 : Int) ^ (k + 2) ≤ 2 ^ 4 := pow_le_pow_right₀ one_le_two (by omega)
      have taken : 0 ≤ v * 2 ^ (k + 1) ∧ v * 2 ^ (k + 1) ≤ 2 ^ (k + 1) := by rcases bit with rfl | rfl <;> omega
      have rest := windowed_absorb j (k + 1) (x := x + v * 2 ^ (k + 1)) (by omega) tailBits (by omega) (by omega)
      rw [absorb_bit (j + 3) k tail bit (by omega), radixValue, List.length_cons, Nat.add_assoc, Nat.add_comm 1 k]
      convert rest using 1
      rw [double]
      ring

/-! ## The i-loop (R228) -/

/-- A power of 2 is at most 8, or a multiple of 16. -/
theorem pow_two_small_or_dvd (m : Nat) : (2 : Int) ^ m ≤ 8 ∨ (16 : Int) ∣ 2 ^ m :=
  (le_or_gt m 3).imp (fun few => pow_le_pow_right₀ one_le_two few) fun many => pow_dvd_pow 2 many

/-- The digits keep the value of the bits, or lose the carry off the end; that happens only to a value above half. -/
theorem radixValue_slideFrom (fuel : Nat) {l : List Int} (bits : areBits l) :
    radixValue 2 (slideFrom fuel l) = radixValue 2 l ∨
      (2 ^ l.length < 2 * radixValue 2 l ∧ radixValue 2 (slideFrom fuel l) = radixValue 2 l - 2 ^ l.length) := by
  induction fuel generalizing l with
  | zero => exact .inl rfl
  | succ fuel ih =>
    cases l with
    | nil => exact .inl rfl
    | cons v rest =>
      obtain ⟨bit, restBits⟩ := areBits_cons.mp bits
      rw [List.length_cons, pow_succ, radixValue]
      unfold slideFrom
      split
      next zero =>
        rw [radixValue]
        rcases ih restBits with kept | lost <;> omega
      next nonzero =>
        obtain rfl : v = 1 := bit.resolve_left nonzero
        obtain ⟨⟨-, low, -⟩, frontBits, frontLength⟩ := absorbed_absorb 6 1 (x := 1) le_rfl
          ⟨⟨rfl, by norm_num, by norm_num⟩, restBits, rfl⟩
        have window : windowed (1 + 2 * radixValue 2 rest) rest.length (absorb 6 1 1 rest) :=
          windowed_absorb 3 0 rfl restBits one_pos one_lt_two
        obtain ⟨four, value⟩ := window
        have bound := radixValue_bits frontBits
        have front := ih frontBits
        rw [frontLength] at bound front
        rw [radixValue]
        rcases value with value | ⟨places, noBits, value⟩
        · rcases front with kept | ⟨half, lost⟩
          · left; omega
          · -- The bits in front are a multiple of 16 above half, so the digit, at least −15, leaves `l` above half.
            right
            rcases pow_two_small_or_dvd rest.length with few | many <;> omega
        · -- The one carry is gone and no bit is left to lose another.
          have sixteen : (2 : Int) ^ 4 ≤ 2 ^ rest.length := pow_le_pow_right₀ one_le_two places
          right
          omega

/-- Settles O41: the digits by the b-loop's invariant, their sum by the i-loop's. -/
theorem slideDigits : Obligations.SlideDigits := by
  intro a
  have value := radixValue_slideFrom 256 (areBits_scalarBits a)
  have sum : digitSum 2 256 (slide a) = radixValue 2 (slide a) := by rw [← digitSum_length, length_slide]
  rw [← slide, ← sum, radixValue_scalarBits, scalarBits, List.length_map, List.length_range] at value
  exact ⟨length_slide a, fun d => slideDigit_of_mem_slide, value.imp_right fun ⟨half, lost⟩ => ⟨by omega, lost⟩⟩

end Sys2Proof.Machine
end

section
/-! SUPPORT. The Montgomery ladder (R240 to R244): the model's loop as the run of R241 over the clamped scalar's bits,
and what that run keeps for u = 0; with the obligations O42 and O43.
-/
namespace Sys2Proof.Machine
open scoped Fin.CommRing

/-! ## The clamped scalar (R17) -/

theorem clamp_getLsbD_eq_clampedBit (n : Bytes32) {j : Nat} (hj : j < 256) :
    (clamp n).getLsbD j = clampedBit n j := by
  rw [clamp_getLsbD n j hj le_rfl, clampedBit]
  split_ifs with cleared top
  · simp [show ¬ j = 254 by omega, show ¬ (3 ≤ j ∧ j < 254) by omega]
  · simp [top]
  · simp [top, show 3 ≤ j ∧ j < 254 by omega]

theorem clamp_congr {n n' : Bytes32} (same : ∀ j, 3 ≤ j → j < 254 → n.getLsbD j = n'.getLsbD j) :
    clamp n = clamp n' := by
  apply BitVec.eq_of_getLsbD_eq
  intro j hj
  rw [clamp_getLsbD_eq_clampedBit n hj, clamp_getLsbD_eq_clampedBit n' hj, Bool.eq_iff_iff]
  simp only [clampedBit, Bool.or_eq_true, Bool.and_eq_true, decide_eq_true_eq]
  exact or_congr_right (and_congr_right fun ⟨low, high⟩ => by rw [same j low high])

/-! ## One iteration (R241) -/

/-- The two pairs of the loop's temporaries, without the swap bit. -/
def LadderVars.pairs (v : LadderVars) : LadderPairs := ⟨v.x2, v.z2, v.x3, v.z3⟩

theorem pairs_ladderSwap (bit : Bool) (v : LadderVars) : (ladderSwap bit v).pairs = v.pairs.swapped bit := by
  cases bit <;> rfl

theorem ladderFormulas_ladderStep (x1 : Fe) (bit : Bool) (v : LadderVars) :
    ladderFormulas x1 (v.pairs.swapped (v.swap ^^ bit)) (ladderStep x1 bit v).pairs := by
  rw [← pairs_ladderSwap]
  have small (e : Fe) : feMulSmall e const121666 = feOfNat 121666 * e := (feMulSmall_eq e 121666).trans (mul_comm _ _)
  refine ⟨_, _, _, _, _, _, _, _, _, rfl, rfl, rfl, rfl, rfl, rfl, rfl, rfl, rfl, rfl, rfl, rfl, ?_⟩
  rw [← small]
  rfl

/-! ## The iterations from the top bit down (R241) -/

/-- The temporaries after `k` iterations, whose positions are 254, 253, …, 255 − k. -/
def ladderAfter (n : Bytes32) (x1 : Fe) : Nat → LadderVars
  | 0 => ⟨1, 0, x1, 1, false⟩
  | k + 1 => ladderStep x1 ((clamp n).getLsbD (254 - k)) (ladderAfter n x1 k)

/-- The positions that `k` iterations leave to the loop. -/
theorem ladderLoop_ladderAfter (n : Bytes32) (x1 : Fe) : ∀ {k : Nat}, k ≤ 255 →
    ladderLoop (clamp n) x1 (255 - k) (ladderAfter n x1 k) = ladderLoop (clamp n) x1 255 (ladderAfter n x1 0)
  | 0, _ => rfl
  | k + 1, hk => by
    have ih := ladderLoop_ladderAfter n x1 (Nat.le_of_lt hk)
    rw [show 255 - k = (254 - k) + 1 by omega, ladderLoop] at ih
    rw [show 255 - (k + 1) = 254 - k by omega]
    exact ih

theorem ladderLoop_eq (n : Bytes32) (x1 : Fe) :
    ladderLoop (clamp n) x1 255 ⟨1, 0, x1, 1, false⟩ = ladderAfter n x1 255 :=
  (ladderLoop_ladderAfter n x1 le_rfl).symm

/-- The running swap is the bit of the iteration before, and the clear bit 255 at the start. -/
theorem ladderAfter_swap (n : Bytes32) (x1 : Fe) : ∀ k, (ladderAfter n x1 k).swap = clampedBit n (255 - k)
  | 0 => rfl
  | k + 1 => by
    rw [show 255 - (k + 1) = 254 - k by omega]
    exact clamp_getLsbD_eq_clampedBit n (by omega)

theorem ladderRun_ladderAfter (n : Bytes32) (x1 : Fe) : ladderRun n x1 fun k => (ladderAfter n x1 k).pairs := by
  refine ⟨rfl, fun k _ => ?_⟩
  rw [← ladderAfter_swap n x1 k, ← clamp_getLsbD_eq_clampedBit n (by omega : 254 - k < 256)]
  exact ladderFormulas_ladderStep x1 _ _

/-- The pairs after the last iteration and the swap by bit 0. -/
def ladderLast (n : Bytes32) (x1 : Fe) : LadderPairs := (ladderAfter n x1 255).pairs.swapped (clampedBit n 0)

theorem ladder_eq (n u : Bytes32) :
    ladder n u = feEnc ((ladderLast n (feDec u)).x2 * feInvert (ladderLast n (feDec u)).z2) := by
  rw [ladderLast, ← ladderAfter_swap n (feDec u) 255, ← pairs_ladderSwap, ← ladderLoop_eq]
  rfl

/-- Settles O42: the completions, and the loop as R241's run, whose last x2 · z2^(p−2) is what is encoded. -/
theorem x25519Commands : Obligations.X25519Commands := by
  refine ⟨fun s rd ra rb => ⟨command_legal rfl s _, command_legal rfl s _⟩, fun n u => ?_⟩
  refine ⟨feDec u, _, ladderLast n (feDec u), feDec_val u, ladderRun_ladderAfter n (feDec u), rfl, ?_⟩
  rw [ladder_eq, feEnc_toNat, mul_feInvert_val]

/-! ## The ladder at u = 0 (R244 (c)) -/

/-- Each pair has a zero: it stands for the neutral point, for the point with u = 0, or is (0, 0). -/
def LadderPairs.degenerate (v : LadderPairs) : Prop := v.x2 * v.z2 = 0 ∧ v.x3 * v.z3 = 0

theorem LadderPairs.degenerate.swapped {v : LadderPairs} (h : v.degenerate) (swap : Bool) :
    (v.swapped swap).degenerate := by
  cases swap with
  | false => exact h
  | true => exact h.symm

/-- With u = 0 the new z3 has the factor 0, and the new z2 has the factor E = 4 · x2 · z2. -/
theorem degenerate_of_ladderFormulas {v w : LadderPairs} (step : ladderFormulas 0 v w) (h : v.degenerate) :
    w.degenerate := by
  obtain ⟨a, b, c, dm, da, cb, aa, bb, e, rfl, rfl, -, -, -, -, rfl, rfl, rfl, -, hz3, -, hz2⟩ := step
  have hE : (v.x2 + v.z2) * (v.x2 + v.z2) - (v.x2 - v.z2) * (v.x2 - v.z2) = 0 := by linear_combination 4 * h.1
  constructor
  · rw [hz2, hE, zero_mul, mul_zero]
  · rw [hz3, zero_mul, mul_zero]

theorem degenerate_of_ladderRun {n : Bytes32} {v : Nat → LadderPairs} (run : ladderRun n 0 v) :
    ∀ {k : Nat}, k ≤ 255 → (v k).degenerate
  | 0, _ => by
    rw [run.1]
    exact ⟨mul_zero 1, zero_mul 1⟩
  | k + 1, hk => degenerate_of_ladderFormulas (run.2 k hk) ((degenerate_of_ladderRun run (Nat.le_of_lt hk)).swapped _)

theorem mul_feInvert_eq_zero {a z : Fe} (h : a * z = 0) : a * feInvert z = 0 := by
  rw [feInvert_eq]
  rcases fe_mul_eq_zero.mp h with ha | hz
  · rw [ha, zero_mul]
  · rw [hz, zero_pow (by decide), mul_zero]

theorem ladder_zero (n : Bytes32) : ladder n 0#256 = 0#256 := by
  have start : feDec 0#256 = 0 := rfl
  have last : (ladderLast n 0).degenerate := (degenerate_of_ladderRun (ladderRun_ladderAfter n 0) le_rfl).swapped _
  rw [ladder_eq, start, mul_feInvert_eq_zero last.1]
  rfl

/-- Settles O43: the ladder reads the scalar through `clamp` and u through `feDec`, and encodes a field value. -/
theorem ladderInputsAndOutput : Obligations.LadderInputsAndOutput := by
  intro n u
  refine ⟨?_, fun n' same => ?_, fun u' same => ?_, ladder_zero n⟩
  · rw [ladder_eq, feEnc_toNat]
    exact Fin.isLt _
  · rw [ladder, ladder, clamp_congr same]
  · have same : feDec u = feDec u' := fe_ext same
    rw [ladder_eq, ladder_eq, same]

end Sys2Proof.Machine
end

section
/-! SUPPORT. The control and status state (R281, R282, R290, R295, R296, R310, R311): what every completion leaves in it,
the `CMD` and `CTRL` writes and the reset, and that every step keeps its invariant, with the obligations O8, O9, O17, O19,
O20 and O56 that rest on them.
-/
namespace Sys2Proof.Machine

/-! ## Completions (R281, R282, R296) -/

/-- The codes of the five errors (R282). -/
theorem errWord_mem_range (e : ErrCode) : 1 ≤ (errWord e).toNat ∧ (errWord e).toNat ≤ 5 := by
  cases e <;> decide

namespace Completes

variable {i : Instr} {s t : State}

theorem idle_and_done (h : Completes i s t) : t.busy = false ∧ t.done = true := by
  cases h with
  | error e work => exact ⟨rfl, rfl⟩
  | writes work hw => exact ⟨rfl, rfl⟩
  | wiped hi => exact ⟨rfl, rfl⟩

/-- DONE is set whatever the outcome, so IE alone decides (R290). -/
theorem irq_eq (h : Completes i s t) : t.irq = s.ie := by
  rw [State.irq, h.idle_and_done.2, h.outside_eq.1, Bool.and_true]

/-- Only an error sets ERR. -/
theorem eq_takeError_of_err (h : Completes i s t) (before : s.err = false) (after : t.err = true) :
    ∃ s0 e, WorksOn i s s0 ∧ t = takeError s0 e := by
  cases h with
  | error e work => exact ⟨_, e, work, rfl⟩
  | writes work hw => rw [finish_err, hw.eq_registers, work.err_eq, before] at after; cases after
  | wiped hi => rw [finish_err, show (wipeAll s).err = s.err from rfl, before] at after; cases after

end Completes

/-- Settles O19: every command answers a state, and the inversion of `exec` says what is in it. -/
theorem everyCommandCompletes : Obligations.EveryCommandCompletes := by
  intro i s
  obtain ⟨s0, effect, answer, -⟩ := exec_complete i s
  have done := exec_cases answer
  obtain ⟨idle, doneSet⟩ := done.idle_and_done
  exact ⟨_, answer, idle, doneSet, done.outside_eq⟩

/-- Settles O20: ERR is set by `takeError` only, on the state that the command works on. -/
theorem errorChangesNothingElse : Obligations.ErrorChangesNothingElse := by
  intro i s t h before after
  obtain ⟨s0, e, work, rfl⟩ := (exec_cases h).eq_takeError_of_err before after
  refine ⟨?frame, errWord_mem_range e⟩
  rw [work.eq_draws]
  rfl

/-! ## Writes to `CMD`, `STATUS` and `CTRL` (R31, R35, R295, R311) -/

theorem hostStep_write_cmd (s : State) (w : Word) : hostStep (.write 0x4 .w32 w) s = .next (writeCmd s w) := rfl

theorem hostStep_write_status (s : State) (v : Word) :
    hostStep (.write 0xC .w32 v) s = .next (writeStatus s v) := rfl

theorem hostStep_write_ctrl (s : State) (v : Word) : hostStep (.write 0x14 .w32 v) s = .next (writeCtrl s v) := rfl

theorem writeCmd_accepted {s : State} (idle : s.busy = false) (noError : s.err = false) (w : Word) :
    writeCmd s w = issue s w := by
  simp [writeCmd, idle, noError]

theorem writeCmd_refused {s : State} (h : s.busy = true ∨ s.err = true) (w : Word) : writeCmd s w = setAccv s :=
  if_pos (Bool.or_eq_true_iff.mpr h)

theorem writeCtrl_of_reset (s : State) {v : Word} (h : v.getLsbD 1 = true) : writeCtrl s v = resetEngine s := if_pos h

/-- Settles O9: the two branches of a `CMD` write. -/
theorem cmdWriteIssues : Obligations.CmdWriteIssues := by
  refine fun s w => ⟨fun idle noError => ⟨issue s w, ?accepted, rfl, rfl⟩, fun h => ?refused⟩
  case accepted => rw [hostStep_write_cmd, writeCmd_accepted idle noError]
  case refused => rw [hostStep_write_cmd, writeCmd_refused h]; rfl

/-! ## Reset (R42, R310, R311) -/

theorem resetValues_reset : resetValues State.reset :=
  ⟨fun _ => Vector.getElem_replicate _, fun _ => Vector.getElem_replicate _, readG_reset, rfl, rfl, rfl, rfl, rfl, rfl,
    fun _ => rfl, rfl, rfl⟩

/-- What a reset leaves as it was is none of the engine's state (log entry 2). -/
theorem resetValues_resetEngine (s : State) : resetValues (resetEngine s) := resetValues_reset

/-- Bit 1 of `CTRL` reads as 0 (R35, R311). -/
theorem ctrlWord_srst (s : State) : (ctrlWord s).getLsbD 1 = false := by
  rw [ctrlWord_eq]
  cases s.ie <;> rfl

/-- Settles O8: both resets are `resetEngine`, which gives every piece of state its reset value. -/
theorem resetValuesHold : Obligations.ResetValuesHold := by
  refine ⟨resetValues_reset,
    fun s rest event => ⟨_, step_of_hardResetEvent event, resetValues_resetEngine _, rfl, rfl⟩,
    fun s v srst => ⟨resetEngine s, ?soft, resetValues_resetEngine s, rfl, rfl⟩,
    fun s => ⟨ctrlWord s, rfl, ctrlWord_srst s⟩⟩
  case soft => rw [hostStep_write_ctrl, writeCtrl_of_reset s srst]

/-! ## The interrupt output (R290) -/

/-- With DONE = 0 the output is low. -/
theorem irq_of_not_done {s : State} (h : s.done = false) : s.irq = false := by
  rw [State.irq, h, Bool.and_false]

/-- Settles O17: a completion leaves DONE = 1, the other four events leave DONE = 0. -/
theorem interruptOutput : Obligations.InterruptOutput := by
  refine ⟨fun s => Bool.and_eq_true_iff, fun i s t h => (exec_cases h).irq_eq, fun s t w idle noError h => ?issued,
    fun s t v bit h => ?written, fun s t rest event h => ?reset⟩
  case issued =>
    rw [hostStep_write_cmd, writeCmd_accepted idle noError] at h
    obtain rfl := Host.Outcome.next.inj h
    exact irq_of_not_done rfl
  case written =>
    obtain status | ctrl := h
    · rw [hostStep_write_status, writeStatus_eq] at status
      obtain rfl := Host.Outcome.next.inj status
      exact irq_of_not_done (by rw [bit, Bool.not_true, Bool.and_false])
    · rw [hostStep_write_ctrl, writeCtrl_of_reset s bit] at ctrl
      obtain rfl := Host.Outcome.next.inj ctrl
      exact irq_of_not_done rfl
  case reset =>
    rw [step_of_hardResetEvent event] at h
    obtain rfl := Host.Outcome.next.inj h
    exact irq_of_not_done rfl

/-! ## The control invariant (R282, R295, R296, R37) -/

theorem busyExclusive_of_idle {s : State} (idle : s.busy = false) : busyExclusive s := by
  intro busy
  rw [idle] at busy
  cases busy

namespace controlInv

variable {s t : State}

/-- The invariant speaks of five fields. -/
theorem congr (inv : controlInv s) (err : t.err = s.err) (errcode : t.errcode = s.errcode) (done : t.done = s.done)
    (pend : t.pend = s.pend) (msg : t.msg = s.msg) : controlInv t := by
  unfold controlInv errConsistent busyExclusive memCanonical State.busy at *
  rwa [err, errcode, done, pend, msg]

theorem takeError (e : ErrCode) : controlInv s → controlInv (takeError s e) :=
  fun ⟨_, _, canonical⟩ => ⟨errWord_mem_range e, busyExclusive_of_idle rfl, canonical⟩

theorem finish : controlInv s → controlInv (finish s) :=
  fun ⟨code, _, canonical⟩ => ⟨code, busyExclusive_of_idle rfl, canonical⟩

/-- The emptied RAM is canonical (R121). -/
theorem wipeAll : controlInv s → controlInv (wipeAll s) := fun ⟨code, exclusive, _⟩ => ⟨code, exclusive, rfl, rfl⟩

theorem resetEngine : controlInv (resetEngine s) := ⟨rfl, busyExclusive_of_idle rfl, rfl, rfl⟩

/-- A command is accepted only with ERR = 0, and its issue clears DONE (R295). -/
theorem writeCmd (inv : controlInv s) (w : Word) : controlInv (writeCmd s w) := by
  have ⟨code, _, canonical⟩ := inv
  by_cases refused : s.busy = true ∨ s.err = true
  · rw [writeCmd_refused refused]
    exact inv.congr rfl rfl rfl rfl rfl
  · obtain ⟨idle, noError⟩ := not_or.mp refused
    have noError : s.err = false := Bool.eq_false_iff.mpr noError
    rw [writeCmd_accepted (Bool.eq_false_iff.mpr idle) noError]
    exact ⟨code, fun _ => ⟨noError, rfl⟩, canonical⟩

/-- ERR and `ERRCODE` are cleared together (R31, R293). -/
theorem writeStatus (inv : controlInv s) (v : Word) : controlInv (writeStatus s v) := by
  obtain ⟨code, exclusive, canonical⟩ := inv
  rw [writeStatus_eq]
  refine ⟨?code, fun busy => ?exclusive, canonical⟩
  case code =>
    cases clear : v.getLsbD 2 with
    | false => simpa [errConsistent] using code
    | true => simp [errConsistent]
  case exclusive =>
    obtain ⟨err, done⟩ := exclusive busy
    simp [err, done]

theorem ite {c : Prop} [Decidable c] (yes : c → controlInv s) (no : ¬ c → controlInv t) :
    controlInv (if c then s else t) := iteInduction yes no

theorem writeCtrl (inv : controlInv s) (v : Word) : controlInv (writeCtrl s v) :=
  .ite (fun _ => .resetEngine) fun _ => inv.congr rfl rfl rfl rfl rfl

/-- An aligned word of the MSG window lies inside the RAM (R37, R64). -/
theorem writeMsg (inv : controlInv s) {o : Nat} (aligned : o % 4 = 0) (window : inMsg o = true) (v : Word) :
    controlInv { s with msg := memWriteWord s.msg (o - 0x1000) v } := by
  obtain ⟨code, exclusive, wf, inRam⟩ := inv
  have last : o - 0x1000 + 3 < 4096 := by have := inMsg_iff.mp window; omega
  exact ⟨code, exclusive, memWriteWord_wf _ v wf, memWriteWord_inRam v last inRam⟩

/-- The writes in the order of the register map (R61). -/
theorem writeWord32 (inv : controlInv s) {o : Nat} (aligned : o % 4 = 0) (v : Word) :
    controlInv (writeWord32 o s v) := by
  have refused : controlInv (setAccv s) := inv.congr rfl rfl rfl rfl rfl
  exact .ite (fun _ => inv.writeCmd v) fun _ =>
    .ite (fun _ => .ite (fun _ => refused) fun _ => inv.congr rfl rfl rfl rfl rfl) fun _ =>
    .ite (fun _ => inv.writeStatus v) fun _ => .ite (fun _ => inv.writeCtrl v) fun _ =>
    .ite (fun _ => .ite (fun _ => refused) fun _ => inv.congr rfl rfl rfl rfl rfl) fun _ =>
    .ite (fun _ => .ite (fun _ => refused) fun _ => inv.congr rfl rfl rfl rfl rfl) fun _ =>
    .ite (fun window => .ite (fun _ => refused) fun _ => inv.writeMsg aligned window v) fun _ => refused

/-- A read touches only ACCV and the value returned (R70). -/
theorem hostStep (inv : controlInv s) {a : HostAccess} (h : hostStep a s = .next t) : controlInv t := by
  cases a with
  | read o w =>
    obtain ⟨frame, -⟩ := readsHaveNoSideEffect s t o w h
    rw [frame]
    exact inv.congr rfl rfl rfl rfl rfl
  | write o w v =>
    simp only [Machine.hostStep] at h
    split at h
    · obtain rfl := Host.Outcome.next.inj h
      exact .ite (fun ok => inv.writeWord32 (accessOk_iff.mp ok).2 v) fun _ => inv.congr rfl rfl rfl rfl rfl
    · cases h

/-- A command completes from a state that differs from `s` in its draws and its registers at most. -/
theorem exec (inv : controlInv s) {i : Instr} (h : exec i s = .next t) : controlInv t := by
  have atWork {s0 : State} (work : WorksOn i s s0) : controlInv s0 := by
    rw [work.eq_draws]
    exact inv.congr rfl rfl rfl rfl rfl
  cases exec_cases h with
  | error e work => exact (atWork work).takeError e
  | writes work hw =>
    rw [hw.eq_registers]
    exact ((atWork work).congr rfl rfl rfl rfl rfl).finish
  | wiped _ => exact inv.wipeAll.finish

theorem engineStep (inv : controlInv s) (h : engineStep s = .next t) : controlInv t := by
  unfold Machine.engineStep at h
  split at h
  · exact Host.Outcome.next.inj h ▸ inv
  · exact Host.Outcome.next.inj h ▸ inv.takeError .illegal
  · exact inv.exec h

end controlInv

/-- Settles O56: the three events of the schedule, each over the state without its event. -/
theorem controlStateIsKept : Obligations.ControlStateIsKept := by
  intro s t inv h
  have rested (rest : List Event) : controlInv { s with agenda := rest } := inv.congr rfl rfl rfl rfl rfl
  cases agenda : s.agenda with
  | nil => exact (rested []).engineStep (step_of_engineTurn (.inr ⟨agenda, rfl⟩) ▸ h)
  | cons event rest =>
    cases event with
    | host a => exact (rested rest).hostStep (step_of_hostEvent agenda ▸ h)
    | engine => exact (rested rest).engineStep (step_of_engineTurn (.inl agenda) ▸ h)
    | hardReset =>
      rw [step_of_hardResetEvent agenda] at h
      exact Host.Outcome.next.inj h ▸ .resetEngine

end Sys2Proof.Machine
end

section
/-! SUPPORT. The causes of `ERR_ILLEGAL` and `ERR_TAG` (R283, R285): a command whose first failing check is a source, an
operand or the message raises that check's error and nothing else, with the obligations O6 and O24 that rest on it.
-/
namespace Sys2Proof.Machine

/-! ## The first failing check raises its error (R99) -/

theorem exec_of_firstError {i : Instr} {s : State} {e : ErrCode} (first : firstError s i = some e)
    (noDraw : e ≠ .invalidKey) : exec i s = .next (takeError s e) := by
  obtain ⟨raised, -, -⟩ := firstFailingCheckDecides.2 i s
  exact raised e first noDraw

/-- A source is checked before the operands in `ARG`, the message and the draw. -/
theorem exec_of_sourceError {i : Instr} {s : State} {e : ErrCode} (wf : i.wf = true)
    (source : (sourcesOf i).findSome? (sourceError s) = some e) (noDraw : e ≠ .invalidKey) :
    exec i s = .next (takeError s e) :=
  exec_of_firstError (by rw [firstError_of_wf wf, source, Option.some_or]) noDraw

/-- A command without sources has its operands checked first. -/
theorem exec_of_operandError {i : Instr} {s : State} {e : ErrCode} (wf : i.wf = true) (noSources : sourcesOf i = [])
    (operand : operandError s i = some e) (noDraw : e ≠ .invalidKey) : exec i s = .next (takeError s e) :=
  exec_of_firstError (by rw [firstError_of_wf wf, noSources, operand]; rfl) noDraw

/-- A command without sources and operands to check has its message checked first (R286). -/
theorem exec_of_messageError {i : Instr} {s : State} {e : ErrCode} (wf : i.wf = true) (noSources : sourcesOf i = [])
    (noOperand : operandError s i = none) (message : messageError s i = some e) (noDraw : e ≠ .invalidKey) :
    exec i s = .next (takeError s e) :=
  exec_of_firstError (by rw [firstError_of_wf wf, noSources, noOperand, message]; rfl) noDraw

/-! ## `ERR_ILLEGAL` (R93, R97, R101, R283) -/

theorem exec_geSelect_illegal {s : State} {rd : Reg} (inRange : rd.toNat < 8)
    (bad : selectInRange s.arg.toNat = false) : exec (.geSelect rd) s = .next (takeError s .illegal) :=
  exec_of_operandError (gFieldOk_of_lt inRange) rfl (by simp [operandError, bad]) nofun

theorem exec_geLoadBi_illegal {s : State} {rd : Reg} (inRange : rd.toNat < 8) (above : 7 < s.arg.toNat) :
    exec (.geLoadBi rd) s = .next (takeError s .illegal) :=
  exec_of_operandError (gFieldOk_of_lt inRange) rfl (if_neg (Nat.not_le.mpr above)) nofun

/-- The three key commands have the one overlap check. -/
theorem exec_keyCommands_overlap (s : State) {rd ra : Reg} (rb : Reg) (inRange : rd.toNat < 8)
    (overlap : ra.toNat = 2 * rd.toNat ∨ ra.toNat = 2 * rd.toNat + 1) :
    exec (.edFromSeed rd ra rb) s = .next (takeError s .illegal) ∧
      (rb.toNat < 8 → exec (.edFrom rd ra rb) s = .next (takeError s .illegal)) ∧
      exec (.edGenerate rd ra) s = .next (takeError s .illegal) := by
  have legal : wFieldOk rd = true := wFieldOk_of_lt inRange
  refine ⟨exec_of_operandError legal rfl (if_pos overlap) nofun, fun hb => ?_,
    exec_of_operandError legal rfl (if_pos overlap) nofun⟩
  exact exec_of_operandError (Bool.and_eq_true_iff.mpr ⟨legal, wFieldOk_of_lt hb⟩) rfl
    (if_pos overlap) nofun

/-- Settles O6: an illegal word by the engine's turn on it, the other causes by the operand check. -/
theorem errIllegalConditions : Obligations.ErrIllegalConditions :=
  ⟨fun _ _ _ turn pending illegal => step_of_not_wordLegal turn pending illegal,
    fun _ _ inRange bad => exec_geSelect_illegal inRange bad,
    fun _ _ inRange above => exec_geLoadBi_illegal inRange above,
    fun s _ _ rb inRange overlap => exec_keyCommands_overlap s rb inRange overlap⟩

/-! ## `ERR_TAG` (R285) -/

theorem sourceError_of_variant {s : State} {r : Reg} {pt : Point} {accepted : List Variant}
    (holds : readG s r = some pt) (wrong : pt.variant ∉ accepted) : sourceError s (.g r accepted) = some .tag := by
  simp only [sourceError, holds, if_neg wrong]

theorem sourceError_of_accepted {s : State} {r : Reg} {pt : Point} {accepted : List Variant}
    (holds : readG s r = some pt) (right : pt.variant ∈ accepted) : sourceError s (.g r accepted) = none := by
  simp only [sourceError, holds, if_pos right]

section

variable {i : Instr} {s : State} {r q : Reg} {pt pt' : Point} {accepted accepted' : List Variant} {rest : List Source}

theorem exec_tag_of_first_source (wf : i.wf = true) (sources : sourcesOf i = .g r accepted :: rest)
    (holds : readG s r = some pt) (wrong : pt.variant ∉ accepted) : exec i s = .next (takeError s .tag) :=
  exec_of_sourceError wf (by rw [sources, List.findSome?_cons, sourceError_of_variant holds wrong]) nofun

theorem exec_tag_of_second_source (wf : i.wf = true) (sources : sourcesOf i = .g r accepted :: .g q accepted' :: rest)
    (holds : readG s r = some pt) (right : pt.variant ∈ accepted) (holds' : readG s q = some pt')
    (wrong : pt'.variant ∉ accepted') : exec i s = .next (takeError s .tag) :=
  exec_of_sourceError wf (by
    rw [sources, List.findSome?_cons, sourceError_of_accepted holds right, List.findSome?_cons,
      sourceError_of_variant holds' wrong]) nofun

end

/-- Settles O24: each command by the variants that its row of `sourcesOf` accepts. -/
theorem wrongVariantRaisesTag : Obligations.WrongVariantRaisesTag := by
  intro s rd ra rb rc pt hd ha holds
  have legalA : gFieldOk ra = true := gFieldOk_of_lt ha
  have legal : (gFieldOk rd && gFieldOk ra) = true := Bool.and_eq_true_iff.mpr ⟨gFieldOk_of_lt hd, legalA⟩
  have legal3 (hb : rb.toNat < 8) : (gFieldOk rd && gFieldOk ra && gFieldOk rb) = true :=
    Bool.and_eq_true_iff.mpr ⟨legal, gFieldOk_of_lt hb⟩
  have first {i : Instr} {v : Variant} {rest : List Source} (wf : i.wf = true) (sources : sourcesOf i = .g ra [v] :: rest)
      (wrong : pt.variant ≠ v) : exec i s = .next (takeError s .tag) :=
    exec_tag_of_first_source wf sources holds (by simpa using wrong)
  refine ⟨fun notP3 => ⟨first legal rfl notP3, first legal rfl notP3,
      first legal rfl notP3, fun hb => ?additions,
      first legal rfl notP3⟩,
    fun notP1P1 => ⟨first legal rfl notP1P1, first legal rfl notP1P1⟩,
    fun notP2 => first legal rfl notP2, fun notP2 notP3 => ?encode, fun v q isP3 hb holdsB => ?second⟩
  case additions =>
    exact ⟨first (legal3 hb) rfl notP3, first (legal3 hb) rfl notP3,
      first (legal3 hb) rfl notP3, first (legal3 hb) rfl notP3⟩
  case encode => exact exec_tag_of_first_source legalA rfl holds (by simp [notP2, notP3])
  case second =>
    subst isP3
    have second {i : Instr} {v : Variant} (wf : i.wf = true) (sources : sourcesOf i = [.g ra [.p3], .g rb [v]])
        (wrong : q.variant ≠ v) : exec i s = .next (takeError s .tag) :=
      exec_tag_of_second_source wf sources holds (List.mem_singleton_self _) holdsB (by simpa using wrong)
    exact ⟨fun notCached => ⟨second (legal3 hb) rfl notCached,
        second (legal3 hb) rfl notCached⟩,
      fun notPrecomp => ⟨second (legal3 hb) rfl notPrecomp,
        second (legal3 hb) rfl notPrecomp⟩⟩

end Sys2Proof.Machine
end

section
/-! SUPPORT. The Ed25519 commands (R250 to R257, R275, R286): the bits of an expanded secret, the halves of a joined
string, and the completion of the five commands, with the obligations O44, O45, O46 and O47 that rest on them.
-/
namespace Sys2Proof.Machine

/-! ## Halves of a 64-byte string (R10) -/

theorem firstHalf_getLsbD (s : Bytes64) (j : Nat) : (firstHalf s).getLsbD j = (decide (j < 256) && s.getLsbD j) := by
  simp [firstHalf]

theorem secondHalf_getLsbD (s : Bytes64) (j : Nat) :
    (secondHalf s).getLsbD j = (decide (j < 256) && s.getLsbD (256 + j)) := by
  simp [secondHalf]

@[simp] theorem firstHalf_joinHalves (a b : Bytes32) : firstHalf (joinHalves a b) = a := by
  rw [firstHalf, joinHalves, BitVec.extractLsb'_append_eq_of_add_le (by decide)]
  exact BitVec.extractLsb'_eq_self

@[simp] theorem secondHalf_joinHalves (a b : Bytes32) : secondHalf (joinHalves a b) = b := by
  rw [secondHalf, joinHalves, BitVec.extractLsb'_append_eq_of_le (by decide)]
  exact BitVec.extractLsb'_eq_self

/-! ## The expanded secret (R250, R251) -/

/-- The bits that clamping fixes, of the first half of a clamped string (R17). -/
theorem firstHalf_clamp_getLsbD (s : Bytes64) {j : Nat} (hj : j < 256) :
    (firstHalf (clamp s)).getLsbD j = if j < 3 ∨ j = 255 then false else if j = 254 then true else s.getLsbD j := by
  rw [firstHalf_getLsbD, clamp_getLsbD s j (by omega) (by decide), decide_eq_true hj, Bool.true_and]

theorem le_firstHalf_clamp (s : Bytes64) : 2 ^ 254 ≤ (firstHalf (clamp s)).toNat :=
  Nat.ge_two_pow_of_testBit (firstHalf_clamp_getLsbD s (j := 254) (by decide))

theorem firstHalf_clamp_lt (s : Bytes64) : (firstHalf (clamp s)).toNat < 2 ^ 255 := by
  refine Nat.lt_pow_two_of_testBit _ fun j hj => ?_
  by_cases top : j = 255
  · subst top
    exact firstHalf_clamp_getLsbD s (by decide)
  · exact BitVec.getLsbD_of_ge _ _ (by omega)

theorem firstHalf_clamp_mod_eight (s : Bytes64) : (firstHalf (clamp s)).toNat % 8 = 0 := by
  apply Nat.eq_of_testBit_eq
  intro j
  rw [show (8 : Nat) = 2 ^ 3 from rfl, Nat.testBit_mod_two_pow, Nat.zero_testBit]
  by_cases low : j < 3
  · rw [← BitVec.getLsbD, firstHalf_clamp_getLsbD s (by omega), if_pos (.inl low), Bool.and_false]
  · rw [decide_eq_false low, Bool.false_and]

/-- Clamping changes no byte after the thirty-second (R17). -/
theorem secondHalf_clamp (s : Bytes64) : secondHalf (clamp s) = secondHalf s := by
  apply BitVec.eq_of_getLsbD_eq
  intro j hj
  rw [secondHalf_getLsbD, secondHalf_getLsbD, clamp_getLsbD s _ (by omega) (by decide), if_neg (by omega),
    if_neg (by omega)]

/-- Settles O44: the expanded secret is the clamped hash. -/
theorem expandedSecretIsClamped : Obligations.ExpandedSecretIsClamped := by
  intro seed
  refine ⟨le_firstHalf_clamp _, firstHalf_clamp_lt _, firstHalf_clamp_mod_eight _, secondHalf_clamp _,
    fun j low high => ?_⟩
  rw [edExpand, clamp_getLsbD _ j (by omega) (by decide), if_neg (by omega), if_neg (by omega)]

/-! ## Key pairs (R252 to R254) -/

/-- The key pair of a seed: its expanded secret, and the public key of the clamped scalar (R252). -/
theorem edFromSeed_eq (seed : Bytes32) :
    edFromSeed seed = (edExpand seed, encodePoint (p3ToP2 (scalarmultBase (firstHalf (edExpand seed))))) := by
  rw [edFromSeed, edFrom, firstHalf_joinHalves, secondHalf_joinHalves, basePublic]

theorem destOverlap_of_ne {rd ra : Reg} (low : ra.toNat ≠ 2 * rd.toNat) (high : ra.toNat ≠ 2 * rd.toNat + 1) :
    destOverlap rd ra = false :=
  Bool.eq_false_iff.mpr fun overlap => (destOverlap_iff.mp overlap).elim low high

section

variable {rd ra : Reg} (legal : wFieldOk rd = true) (disjoint : destOverlap rd ra = false) (s : State)
include legal disjoint

theorem exec_edFromSeed (rb : Reg) :
    exec (.edFromSeed rd ra rb) s = .next (finish (putKeyPair s rd ra (edFromSeed (readB s rb)))) := by
  rw [exec, execEdFromSeed, command_legal (i := .edFromSeed rd ra rb) legal, needDisjoint_ok disjoint]
  rfl

theorem exec_edFrom {rb : Reg} (legal' : wFieldOk rb = true) :
    exec (.edFrom rd ra rb) s = .next (finish (putKeyPair s rd ra (edFrom (readW s rb)))) := by
  rw [exec, execEdFrom, command_legal (i := .edFrom rd ra rb) (Bool.and_eq_true_iff.mpr ⟨legal, legal'⟩),
    needDisjoint_ok disjoint]
  rfl

theorem exec_edGenerate :
    exec (.edGenerate rd ra) s = .next (complete (takeDraw s) (generateFrom (takeDraw s) rd ra (nextDraw s))) := by
  have wf : (Instr.edGenerate rd ra).wf = true := legal
  rw [exec, execEdGenerate, if_pos (by rw [wf, disjoint]; rfl), command_legal wf]

end

/-- Settles O45: the two commands by their completions, the key pair of a seed by its halves. -/
theorem keyCommands : Obligations.KeyCommands := by
  intro s rd ra rb inRange low high
  have legal := wFieldOk_of_lt inRange
  have disjoint := destOverlap_of_ne low high
  refine ⟨?_, fun hb => exec_edFrom legal disjoint s (wFieldOk_of_lt hb)⟩
  rw [exec_edFromSeed legal disjoint, edFromSeed_eq]
  rfl

/-- Settles O46: the command completes as its one draw says. -/
theorem generateCommand : Obligations.GenerateCommand := by
  intro s rd ra inRange low high
  have completes := exec_edGenerate (wFieldOk_of_lt inRange) (destOverlap_of_ne low high) s
  refine ⟨fun seed draw => ?_, fun failure => ?_⟩
  · rw [completes, draw, generateFrom, edFromSeed_eq]
    rfl
  · rw [completes, failure]
    rfl

/-! ## Equality of byte strings (R275) -/

/-- The OR of a list of differences is 0 exactly when every one of them is. -/
theorem foldl_or_eq_zero_iff (d : Nat → Byte) (l : List Nat) (acc : Byte) :
    l.foldl (fun acc i => acc ||| d i) acc = 0#8 ↔ acc = 0#8 ∧ ∀ i ∈ l, d i = 0#8 := by
  induction l generalizing acc with
  | nil => simp
  | cons i l ih => simp [ih, BitVec.or_eq_zero_iff, and_assoc]

/-- Two strings with the same 32 bytes are equal (R10). -/
theorem eq_of_byteAt_eq {a b : Bytes32} (same : ∀ i < 32, byteAt a i = byteAt b i) : a = b := by
  apply BitVec.eq_of_getLsbD_eq
  intro j hj
  have byte := congrArg (BitVec.getLsbD · (j % 8)) (same (j / 8) (by omega))
  simpa only [byteAt_getLsbD _ _ _ (Nat.mod_lt j (by decide)), Nat.div_add_mod] using byte

theorem ctEq_iff {a b : Bytes32} : ctEq a b = true ↔ a = b := by
  rw [ctEq, decide_eq_true_iff, foldl_or_eq_zero_iff]
  constructor
  · rintro ⟨-, zero⟩
    exact eq_of_byteAt_eq fun i hi => BitVec.xor_eq_zero_iff.mp (zero i (List.mem_range.mpr hi))
  · rintro rfl
    exact ⟨rfl, fun i _ => BitVec.xor_self⟩

/-! ## Signing and verifying (R255, R256) -/

theorem edVerify_iff (pk : Bytes32) (sig : Bytes64) (m : List Byte) :
    edVerify pk sig m = true ↔
      (secondHalf sig).toNat < groupOrder ∧ pk ≠ 0#256 ∧
        ∃ v, decodePoint pk = some v ∧
          encodePoint (doubleScalarmult (edChallenge (firstHalf sig) pk m) ⟨-v.x, v.y, v.z, -v.t⟩ (secondHalf sig)) =
            firstHalf sig := by
  unfold edVerify scalarLtL
  by_cases reduced : (secondHalf sig).toNat < groupOrder
  · by_cases zero : pk = 0#256
    · simp [zero]
    · cases decodePoint pk with
      | none => simp [reduced, zero]
      | some v => simp [reduced, zero, ctEq_iff, p3Negate_eq]
  · simp [reduced]

theorem exec_edSign {s : State} {rd ra : Reg} (rb : Reg) (legal : wFieldOk rd = true) (legal' : wFieldOk ra = true)
    (fits : s.msglen.toNat ≤ Config.msgBytes) :
    exec (.edSign rd ra rb) s =
      .next (finish (writeW s rd (edSign (readW s ra) (readB s rb) (memFirst s.msg s.msglen.toNat)))) := by
  rw [exec, execEdSign, command_legal (i := .edSign rd ra rb) (Bool.and_eq_true_iff.mpr ⟨legal, legal'⟩),
    needMessage_ok fits]
  rfl

theorem exec_edVerify {s : State} {rb : Reg} (ra : Reg) (legal : wFieldOk rb = true)
    (fits : s.msglen.toNat ≤ Config.msgBytes) :
    exec (.edVerify ra rb) s =
      .next (finish (setT s (edVerify (readB s ra) (readW s rb) (memFirst s.msg s.msglen.toNat)))) := by
  rw [exec, execEdVerify, command_legal (i := .edVerify ra rb) legal, needMessage_ok fits]
  rfl

/-- Settles O47: the completions of the two commands, verification by its four conditions, and the message check. -/
theorem signAndVerify : Obligations.SignAndVerify := by
  intro s rd ra rb inRange
  have legal := wFieldOk_of_lt inRange
  refine ⟨fun fits => ⟨fun ha => ⟨_, _, _, rfl, rfl, scalarOfNat_toNat _, ?sign⟩,
    fun hb => ⟨_, exec_edVerify ra (wFieldOk_of_lt hb) fits, edVerify_iff _ _ _⟩⟩,
    fun long => ⟨fun ha => ?signLong, fun hb => ?verifyLong⟩⟩
  case sign => exact exec_edSign rb legal (wFieldOk_of_lt ha) fits
  case signLong =>
    exact exec_of_messageError (Bool.and_eq_true_iff.mpr ⟨legal, wFieldOk_of_lt ha⟩) rfl rfl
      (if_neg (Nat.not_le.mpr long)) nofun
  case verifyLong =>
    exact exec_of_messageError (wFieldOk_of_lt hb) rfl rfl (if_neg (Nat.not_le.mpr long)) nofun

end Sys2Proof.Machine
end

section
/-! SUPPORT. The check values of the hash port (R271, R272, R276): the model's SHA-512 evaluated on each of the six
messages, with the obligation O48 that rests on them.
-/
namespace Sys2Proof.Machine

theorem sha512_nil :
    sha512 [] =
      BitVec.ofNat 512 (intLe (beBytes 64
        0xcf83e1357eefb8bdf1542850d66d8007d620e4050b5715dc83f4a921d36ce9ce47d0d13c5d85f2b0ff8318d2877eec2f63b931bd47417a81a538327af927da3e)) := by
  decide +kernel

theorem sha512_abc :
    sha512 [0x61#8, 0x62#8, 0x63#8] =
      BitVec.ofNat 512 (intLe (beBytes 64
        0xddaf35a193617abacc417349ae20413112e6fa4e89a97ea20a9eeee64b55d39a2192992a274fc1a836ba3c23a3feebbd454d4423643ce80e2a9ac94fa54ca49f)) := by
  decide +kernel

/-- Thirty-two zero bytes, as many as a seed has. -/
theorem sha512_zero_seed :
    sha512 (List.replicate 32 0#8) =
      BitVec.ofNat 512 (intLe (beBytes 64
        0x5046adc1dba838867b2bbbfdd0c3423e58b57970b5267a90f57960924a87f1960a6a85eaa642dac835424b5d7c8d637c00408c7a73da672b7f498521420b6dd3)) := by
  decide +kernel

/-- The longest message of one block. -/
theorem sha512_longest_one_block :
    sha512 (List.replicate 111 0x61#8) =
      BitVec.ofNat 512 (intLe (beBytes 64
        0xfa9121c7b32b9e01733d034cfc78cbf67f926c7ed83e82200ef86818196921760b4beff48404df811b953828274461673c68d04e297b0eb7b2b4d60fc6b566a2)) := by
  decide +kernel

/-- The shortest message of two blocks. -/
theorem sha512_shortest_two_blocks :
    sha512 (List.replicate 112 0x61#8) =
      BitVec.ofNat 512 (intLe (beBytes 64
        0xc01d080efd492776a1c43bd23dd99d0a2e626d481e16782e75d54c2503b5dc32bd05f0f1ba33e568b88fd2d970929b719ecbb152f58f130a407c8830604b70ca)) := by
  decide +kernel

/-- The longest input that the engine presents: 64 bytes and a whole message RAM. -/
theorem sha512_longest_input :
    sha512 (((List.range 4096).map fun i => BitVec.ofNat 8 (i % 256)) ++ List.replicate 64 0#8) =
      BitVec.ofNat 512 (intLe (beBytes 64
        0x68b47a5ce269149a6ad65def1fc6a950b0218c24fc1bf5444a19d0bbb9e209b1661fe0044add2868039cc307fad63fb03885c93acd46e1d04689090e901630e2)) := by
  decide +kernel

/-- Settles O48: each value by its evaluation. -/
theorem hashPortCheckValues : Obligations.HashPortCheckValues :=
  ⟨sha512_nil, sha512_abc, sha512_zero_seed, sha512_longest_one_block, sha512_shortest_two_blocks, sha512_longest_input⟩

end Sys2Proof.Machine
end
